-- ==== Sys2Proof/Word.lean ====
section
/-!
DEFINITION. The word types of the external debug interface: a byte, and the two widths PMMIR can have
(spec/10_state.md R11). The fields of the register have their own widths and stand in Config.lean.
-/

namespace Sys2Proof

/-- One address unit of the interface (spec/20_memory.md R34; PRESUMED, log entry 17). -/
abbrev Byte := BitVec 8

/-- The value of PMMIR, and the data of a transaction, when `P_EXT64` is false (R11, R13). -/
abbrev Word32 := BitVec 32

/-- The value of PMMIR, and the data of a transaction, when `P_EXT64` is true (R11, R12). -/
abbrev Word64 := BitVec 64

end Sys2Proof
end

