-- ==== Sys2Proof/Config.lean ====
section
/-!
DEFINITION. What one implementation fixes (spec/00_scope.md R7) and the free values (R9, `draw`).

The spec takes each parameter "as a named argument; none has a value fixed by this spec", so a configuration is plain
data: it stands in the state, where no step changes it, and every statement ranges over all of them (log entry 1).
The sixteenth parameter, `ACCESS_ALLOWED`, is a predicate on the environment and stands in the state by its present
value (log entry 3).
-/

namespace Sys2Proof

/-- The Core power domain (spec/10_state.md R27). -/
inductive CorePower where
  | on
  | lowPower
  | off
  deriving DecidableEq, Repr, Inhabited

/-- `BYTE_ORDER`: on which byte lane a part of the value stands, where a model must say so (spec/20_memory.md R38;
that there are two orders is PRESUMED, log entry 17). -/
inductive ByteOrder where
  | little
  | big
  deriving DecidableEq, Repr

/-- `RO_WRITE_RESPONSE`: what the interface answers to a write of the read-only register (R7, R50). -/
inductive RoWriteResponse where
  | ok
  | error
  | draw
  deriving DecidableEq, Repr

/-- The parameters of one implementation, in the order of R7. -/
structure Config where
  /-- `P_EXT`: FEAT_PMUv3_EXT is implemented. -/
  pExt : Bool
  /-- `P_V3P4`: FEAT_PMUv3p4 is implemented. -/
  pV3p4 : Bool
  /-- `P_EXT64`: FEAT_PMUv3_EXT64 is implemented. -/
  pExt64 : Bool
  /-- `P_EDGE`: FEAT_PMUv3_EDGE is implemented. -/
  pEdge : Bool
  /-- `P_TH`: FEAT_PMUv3_TH is implemented. -/
  pTh : Bool
  /-- `EDGE`, PMMIR[27:24]. -/
  edge : BitVec 4
  /-- `THWIDTH`, PMMIR[23:20]. -/
  thWidth : BitVec 4
  /-- `BUS_WIDTH`, PMMIR[19:16]. -/
  busWidth : BitVec 4
  /-- `BUS_SLOTS`, PMMIR[15:8]. -/
  busSlots : BitVec 8
  /-- `SLOTS`, PMMIR[7:0]. -/
  slots : BitVec 8
  /-- `STALL_SLOT_IMPL`: the STALL_SLOT event is implemented. -/
  stallSlotImpl : Bool
  /-- `BUS_COUNT_AVAILABLE`: the bus count information is available. -/
  busCountAvailable : Bool
  /-- `PMU_BASE`: the address of the first byte of the PMU block (R35). -/
  pmuBase : Nat
  /-- `BYTE_ORDER`. -/
  byteOrder : ByteOrder
  /-- `RO_WRITE_RESPONSE`. -/
  roWriteResponse : RoWriteResponse
  deriving DecidableEq, Repr

namespace Config

/-- `Present`: PMMIR exists in this implementation (R4). -/
def present (c : Config) : Bool := c.pExt && c.pV3p4

/-- `W`: the width of PMMIR in bits (R11). -/
def width (c : Config) : Nat := if c.pExt64 then 64 else 32

/-- `W/8`: the number of bytes PMMIR occupies, the one size of an admitted transaction (R36, R37). -/
def regBytes (c : Config) : Nat := if c.pExt64 then 8 else 4

/-- The spec's running example (R23, R51; spec/95_test_vectors.md V1) in the 32-bit form the test vectors take by
default. `State.reset` holds it (DESIGN CHOICE, log entry 1). -/
def workedExample : Config :=
  { pExt := true, pV3p4 := true, pExt64 := false, pEdge := true, pTh := true
    edge := 1, thWidth := 12, busWidth := 5, busSlots := 2, slots := 8
    stallSlotImpl := true, busCountAvailable := true
    pmuBase := 0, byteOrder := .little, roWriteResponse := .draw }

/-- The configuration that gives edition N's register the value edition O describes, for edition O's four fields
(spec/30_encoding.md R46, informative): EDGE is part of edition O's reserved bits. -/
def ofEditionO (pV3p4 : Bool) (thWidth busWidth : BitVec 4) (busSlots slots : BitVec 8) : Config :=
  { workedExample with
    pExt := true, pV3p4 := pV3p4, pExt64 := false, pEdge := false, pTh := thWidth != 0
    edge := 0, thWidth := thWidth, busWidth := busWidth, busSlots := busSlots, slots := slots }

/-- The FREE VALUE behind a `draw` between two outcomes: the n-th such choice of a run (R9; log entry 5). Nothing
constrains it. -/
opaque freeChoice : Nat → Bool

/-- The FREE VALUE behind the `draw` of `CorePower` after a reset (R28, R68; log entry 5). Nothing constrains it. -/
opaque freePower : Nat → CorePower

end Config

end Sys2Proof
end

