-- ==== Sys2Proof/Syntax.lean ====
section
/-!
DEFINITION. The operations of the machine: one constructor per row of spec/opcode_table.json. The hardware has no
instruction set; an operation is an access of PMMIR through the external debug interface (spec/30_encoding.md R45).
-/

namespace Sys2Proof

/-- The four operations (R45, R51 to R54). Block, offset and size are fixed by the operation; a write carries its data. -/
inductive Instr where
  /-- `PMMIR.RD32`: read, 4 bytes (R51). -/
  | rd32
  /-- `PMMIR.RD64`: read, 8 bytes (R52). -/
  | rd64
  /-- `PMMIR.WR32`: write, 4 bytes of data (R53). -/
  | wr32 (data : Word32)
  /-- `PMMIR.WR64`: write, 8 bytes of data (R54). -/
  | wr64 (data : Word64)
  deriving DecidableEq, Repr

end Sys2Proof
end

