-- ==== Sys2Proof/WellFormed.lean ====
section
/-!
DEFINITION. Which configurations are well formed (spec/10_state.md R25, one check a definition), and which operations a
configuration admits (spec/30_encoding.md R45, the column "admitted when").
-/

namespace Sys2Proof

namespace Config

/-- `EDGE` holds no reserved value (R15). -/
def edgeNotReserved (c : Config) : Bool := c.edge == 0 || c.edge == 1

/-- `EDGE` says whether FEAT_PMUv3_EDGE is implemented (R15). -/
def edgeAgrees (c : Config) : Bool := (c.edge == 1) == c.pEdge

/-- `THWIDTH` holds no reserved value (R16). -/
def thWidthNotReserved (c : Config) : Bool := decide (c.thWidth.toNat ≤ 12)

/-- `THWIDTH` says whether FEAT_PMUv3_TH is implemented (R18). -/
def thWidthAgrees (c : Config) : Bool := (c.thWidth != 0) == c.pTh

/-- `BUS_WIDTH` holds no reserved value (R19). -/
def busWidthNotReserved (c : Config) : Bool :=
  c.busWidth == 0 || decide (3 ≤ c.busWidth.toNat ∧ c.busWidth.toNat ≤ 12)

/-- Without the bus count information `BUS_SLOTS` is zero (R21). -/
def busSlotsAgrees (c : Config) : Bool := c.busCountAvailable || c.busSlots == 0

/-- `WF(cfg)` of R25. -/
def wf (c : Config) : Bool :=
  c.edgeNotReserved && c.edgeAgrees && c.thWidthNotReserved && c.thWidthAgrees && c.busWidthNotReserved
    && c.busSlotsAgrees

/-- The configurations the model gives a meaning: the well-formed ones, and those without the register, whose field
parameters "are not consulted" (R25, R26; DEDUCED, log entry 14). -/
def admissible (c : Config) : Bool := !c.present || c.wf

end Config

/-- The configuration admits the operation: its size is the register's (R37, R45). -/
def Instr.admitted (c : Config) : Instr → Bool
  | .rd32 => !c.pExt64
  | .rd64 => c.pExt64
  | .wr32 _ => !c.pExt64
  | .wr64 _ => c.pExt64

end Sys2Proof
end

