-- ==== Sys2Proof/Decode.lean ====
section
/-!
DEFINITION. Transactions (spec/30_encoding.md R44), the decoder of the table of R45, total on every transaction, with
the refusal reasons of spec/40_register_access.md R55, and the encoder. Last, the word form of a transaction that the
host's two probes need; the spec has "no bit pattern" for a transaction (R49), so that form is the model's own (log
entry 15) and no step of the machine uses it.
-/

namespace Sys2Proof

/-! ### Transactions -/

/-- The direction of a transaction (R44). -/
inductive Dir where
  | read
  | write
  deriving DecidableEq, Repr

/-- The block a transaction names: the PMU block, or one of the blocks the spec does not describe (R34, R36). -/
inductive Block where
  | pmu
  | other (index : Nat)
  deriving DecidableEq, Repr

/-- Direction, size in bytes and, for a write only, `size*8` bits of data (R44). -/
inductive Transfer where
  | read (size : Nat)
  | write (size : Nat) (data : BitVec (size * 8))
  deriving DecidableEq, Repr

/-- `Txn` of R44. -/
structure Txn where
  block : Block
  offset : Nat
  transfer : Transfer
  deriving DecidableEq, Repr

/-- `dir` of R44. -/
def Txn.dir (t : Txn) : Dir :=
  match t.transfer with
  | .read _ => .read
  | .write _ _ => .write

/-- `size` of R44. -/
def Txn.size (t : Txn) : Nat :=
  match t.transfer with
  | .read size => size
  | .write size _ => size

/-- The offset of PMMIR in the PMU block (R34). -/
def pmmirOffset : Nat := 0xE40

/-- The address of PMMIR (R35). -/
def pmmirAddress (c : Config) : Nat := c.pmuBase + pmmirOffset

/-- `base(block) + offset` (R44); the base of another block is not in the spec. -/
def Txn.address (c : Config) (t : Txn) : Option Nat :=
  match t.block with
  | .pmu => some (c.pmuBase + t.offset)
  | .other _ => none

/-- `MemRead(addr, n)` of spec/00_scope.md R9 for an address of the PMU block. -/
def memRead (c : Config) (addr n : Nat) : Txn :=
  { block := .pmu, offset := addr - c.pmuBase, transfer := .read n }

/-- `MemWrite(addr, n, v)` of spec/00_scope.md R9 for an address of the PMU block. -/
def memWrite (c : Config) (addr n : Nat) (v : BitVec (n * 8)) : Txn :=
  { block := .pmu, offset := addr - c.pmuBase, transfer := .write n v }

/-! ### The decoder and the encoder -/

/-- Why a transaction is no operation (R55). -/
inductive Unmatched where
  | size
  | overlap
  | outOfScope
  deriving DecidableEq, Repr

/-- The row of R45 by direction and size, for a transaction at PMMIR's own offset. -/
def decodeTransfer : Transfer → Option Instr
  | .read 4 => some .rd32
  | .read 8 => some .rd64
  | .write 4 data => some (.wr32 data)
  | .write 8 data => some (.wr64 data)
  | _ => none

/-- The row of R45 that a transaction matches, its column "admitted when" aside. -/
def decodeRow (t : Txn) : Option Instr :=
  if t.block = .pmu ∧ t.offset = pmmirOffset then decodeTransfer t.transfer else none

/-- The bytes `offset` to `offset + size - 1` meet the bytes PMMIR occupies (R39, R55). A transaction of no bytes
meets nothing (log entry 24). -/
def Txn.meetsPmmir (c : Config) (t : Txn) : Bool :=
  decide (max t.offset pmmirOffset < min (t.offset + t.size) (pmmirOffset + c.regBytes))

/-- The reason of R55, in the order in which it tests them. -/
def unmatchedReason (c : Config) (t : Txn) : Unmatched :=
  if t.block = .pmu then
    if t.offset = pmmirOffset then .size
    else if t.meetsPmmir c then .overlap
    else .outOfScope
  else .outOfScope

/-- Decoding, total: the operation of R45, or the reason why there is none (R55). A matched operation the
configuration does not admit is refused where it is performed (R51 to R54, "require"). -/
def decode (c : Config) (t : Txn) : Except Unmatched Instr :=
  match decodeRow t with
  | some i => .ok i
  | none => .error (unmatchedReason c t)

/-- The transaction of an operation (R45; R51 to R54, "Encoding"). -/
def encode : Instr → Txn
  | .rd32 => { block := .pmu, offset := pmmirOffset, transfer := .read 4 }
  | .rd64 => { block := .pmu, offset := pmmirOffset, transfer := .read 8 }
  | .wr32 data => { block := .pmu, offset := pmmirOffset, transfer := .write 4 data }
  | .wr64 data => { block := .pmu, offset := pmmirOffset, transfer := .write 8 data }

/-! ### The word form (DESIGN CHOICE, log entry 15)

Bits 63..0 the offset, where the table's match and mask stand; 71..64 the direction (0 Read, 1 Write); 79..72 the
block (0 PMU, n+1 the n-th other); 87..80 the size less four, modulo 256; 95..88 zero; 159..96 the data. -/

/-- A transaction as one number. -/
abbrev TxnWord := BitVec 160

/-- Why a word denotes no transaction. -/
inductive WordRefusal where
  | direction
  | reservedBits
  | strayData
  deriving DecidableEq, Repr

/-- The block of a word's block byte. -/
def Block.ofCode (code : BitVec 8) : Block :=
  match code.toNat with
  | 0 => .pmu
  | n + 1 => .other n

/-- The block byte of a word. -/
def Block.code : Block → BitVec 8
  | .pmu => 0
  | .other n => BitVec.ofNat 8 (n + 1)

/-- The transaction a word denotes, or why it denotes none. -/
def Txn.ofWord (w : TxnWord) : Except WordRefusal Txn :=
  let offset := (w.extractLsb' 0 64).toNat
  let dir := w.extractLsb' 64 8
  let block := Block.ofCode (w.extractLsb' 72 8)
  let size := (w.extractLsb' 80 8 + 4).toNat
  let data := w.extractLsb' 96 64
  if w.extractLsb' 88 8 ≠ 0 then .error .reservedBits
  else if dir = 0 then
    if data = 0 then .ok { block := block, offset := offset, transfer := .read size } else .error .strayData
  else if dir = 1 then
    if data.toNat < 2 ^ (size * 8) then
      .ok { block := block, offset := offset, transfer := .write size (data.setWidth (size * 8)) }
    else .error .strayData
  else .error .direction

/-- The direction byte and the data of a word. -/
def Transfer.dirAndData : Transfer → BitVec 8 × Word64
  | .read _ => (0, 0)
  | .write _ data => (1, data.setWidth 64)

/-- The word of a transaction whose offset, size and data fit in one. -/
def Txn.toWord (t : Txn) : TxnWord :=
  t.transfer.dirAndData.2 ++ (0 : BitVec 8) ++ (BitVec.ofNat 8 t.size - 4) ++ t.block.code ++ t.transfer.dirAndData.1
    ++ BitVec.ofNat 64 t.offset

/-- The word of an operation. -/
def encodeWord (i : Instr) : TxnWord := (encode i).toWord

/-- The operation of a word. -/
def decodeWord (w : TxnWord) : Option Instr :=
  match Txn.ofWord w with
  | .ok t => decodeRow t
  | .error _ => none

/-- The word the host's probe means by `nbits` and `w`: every bit from `nbits` up is zero; a number with bits past a
word's length denotes none. -/
def tableWord (nbits w : Nat) : Option TxnWord :=
  if w % 2 ^ nbits < 2 ^ 160 then some (BitVec.ofNat 160 (w % 2 ^ nbits)) else none

/-- The transaction of the host's probe. -/
def txnOfTableWord (nbits w : Nat) : Option Txn :=
  match tableWord nbits w with
  | some word => (Txn.ofWord word).toOption
  | none => none

/-- The operation the decoder reads from the word of an opcode-table row, numbered as the table numbers it. -/
def decodeTableWord (nbits w : Nat) : Option Instr :=
  match txnOfTableWord nbits w with
  | some t => decodeRow t
  | none => none

end Sys2Proof
end

