-- ==== Sys2Proof/Machine/State.lean ====
section
/-!
DEFINITION. The state of the machine (spec/10_state.md R10): the implementation's configuration, which holds the value
of PMMIR; the environment (Core power domain, accessibility); the agent's run (R56: its list of transactions, with the
environment's moves between them, and the list of outcomes); and the counter of free values. Plain data throughout.
-/

namespace Sys2Proof.Machine

/-- A move of the environment (spec/40_register_access.md R56 (b); spec/70_reset_and_hazards.md R68). -/
inductive EnvMove where
  /-- `ENV CorePower := p` (R27, R49). -/
  | power (p : CorePower)
  /-- Whatever `ACCESS_ALLOWED` depends on changes, and it now is `allowed` (R56, R63). -/
  | access (allowed : Bool)
  /-- A reset: the identity on the register and a draw on `CorePower` (R68). -/
  | reset
  deriving DecidableEq, Repr

/-- One line of an agenda: a transaction of the agent, or a move of the environment (R49, R56). -/
inductive Event where
  | transaction (t : Txn)
  | environment (m : EnvMove)
  deriving DecidableEq, Repr

/-- The outcome of one performed transaction, as the agent gets it (spec/00_scope.md R9). The outcome `Refuse` of R9
is a `Refusal` of the step: it marks the whole run (R55). -/
inductive Response where
  /-- `Ok(v)`: a 4-byte read completed. -/
  | ok32 (v : Word32)
  /-- `Ok(v)`: an 8-byte read completed. -/
  | ok64 (v : Word64)
  /-- `Ok`: a write completed. -/
  | ok
  /-- `Error`: the interface returned an error response, without data (spec/60_exceptions.md R58, R59). -/
  | error
  deriving DecidableEq, Repr

structure State where
  /-- The implementation's parameters, PMMIR's five fields among them (R7, R10). -/
  config : Config
  /-- The Core power domain (R27). -/
  corePower : CorePower
  /-- What `ACCESS_ALLOWED` says of the present environment (R31, R63; log entry 3). -/
  accessAllowed : Bool
  /-- What is still to happen, first event first (R56; log entry 4). -/
  agenda : List Event
  /-- The outcomes so far, oldest first (R56). -/
  responses : List Response
  /-- The free values taken so far: the model's own counter, not the spec's (R9; log entry 5). -/
  draws : Nat
  deriving DecidableEq, Repr

/-- What stops the machine with a fault: nothing. The one error of the hardware is the response `Error` to one
transaction, which stops neither the agent nor the machine (R56, R60, R64); so this type has no constructor, and no
step can raise a fault. Safe: there is nothing to raise. -/
inductive Fault where
  deriving DecidableEq, Repr

/-- Where the model has no meaning to give: the closed list of R55, and R25. A refusal ends the run, so that no claim
can be proved of a run that contains one (R55). -/
inductive Refusal where
  /-- Raised by no meaning: for an operation that has none yet, by `exec`'s arm. Safe. -/
  | notModelled (mnemonic : String)
  /-- Raised by every operation and step of a configuration that is not well formed (R25). Safe. -/
  | configuration
  /-- Raised by every transaction while `ACCESS_ALLOWED` is false (R50, R63). Safe. -/
  | accessibilityNotInSource
  /-- Raised by a transaction at PMMIR's offset whose size is not the register's (R37, R55). Safe. -/
  | size
  /-- Raised by a transaction at another offset that meets PMMIR's bytes (R39, R55). Safe. -/
  | overlap
  /-- Raised by a transaction anywhere else (R36, R55). Safe. -/
  | outOfScope
  deriving DecidableEq, Repr

/-- The state right after a reset of an implementation `c`, with the environment as given (R28, R68), before its run has
begun: that the agenda and the outcomes are empty is the model's choice (DESIGN CHOICE, log entry 16). -/
def State.resetWith (c : Config) (power : CorePower) (allowed : Bool) : State :=
  { config := c, corePower := power, accessAllowed := allowed, agenda := [], responses := [], draws := 0 }

/-- One reset state: R28 gives PMMIR "the configuration's" values and `CorePower` a draw. The configuration (log entry
1), `On` (2) and the accessibility (3) are DESIGN CHOICES, unsafe to lean on; `State.resetWith` ranges over all. -/
def State.reset : State := State.resetWith Config.workedExample .on true

end Sys2Proof.Machine
end

