-- ==== Sys2Proof/Machine/Operands.lean ====
section
/-!
DEFINITION. The register's value: assembled from its fields and split into them (spec/10_state.md R12, R13, R23;
spec/30_encoding.md R47), and laid out as bytes in the address space (spec/20_memory.md R35, R36, R38). There are no
operand forms (R47): the data of a write is not decoded at all.
-/

namespace Sys2Proof.Machine

/-! ### The value and its fields -/

/-- The fields of PMMIR in one row, bits [27:0] (R12, R13). -/
def fieldBits (c : Config) : BitVec (4 + 4 + 4 + 8 + 8) :=
  c.edge ++ c.thWidth ++ c.busWidth ++ c.busSlots ++ c.slots

/-- `PMMIR_VALUE` in `w` bits: the fields, zero-extended (R23); the bits above are RES0 and read as zero (R14;
PRESUMED, log entry 6). -/
def pmmirValue (w : Nat) (c : Config) : BitVec w := (fieldBits c).setWidth w

/-- `EDGE`, `v[27:24]` (R23). -/
def edgeOf {w : Nat} (v : BitVec w) : BitVec 4 := v.extractLsb' 24 4

/-- `THWIDTH`, `v[23:20]` (R23). -/
def thWidthOf {w : Nat} (v : BitVec w) : BitVec 4 := v.extractLsb' 20 4

/-- `BUS_WIDTH`, `v[19:16]` (R23). -/
def busWidthOf {w : Nat} (v : BitVec w) : BitVec 4 := v.extractLsb' 16 4

/-- `BUS_SLOTS`, `v[15:8]` (R23). -/
def busSlotsOf {w : Nat} (v : BitVec w) : BitVec 8 := v.extractLsb' 8 8

/-- `SLOTS`, `v[7:0]` (R23). -/
def slotsOf {w : Nat} (v : BitVec w) : BitVec 8 := v.extractLsb' 0 8

/-- The register as a number, where it exists (R10, R26). -/
def State.pmmir (s : State) : Option Nat :=
  if s.config.present then some (pmmirValue s.config.width s.config).toNat else none

/-- The 32-bit register of edition O, from its four fields (R46, informative). -/
def editionOValue (thWidth busWidth : BitVec 4) (busSlots slots : BitVec 8) : Word32 :=
  (0 : BitVec 8) ++ thWidth ++ busWidth ++ busSlots ++ slots

/-! ### The value as bytes

The only location of the address space that the spec describes holds a constant (R24, R36), so memory is a function of
the configuration and no field of the state (log entry 20). -/

/-- Bytes by address, addresses strictly rising; nothing is known at an address that is not listed (R36). -/
abbrev Memory := List Host.Cell

/-- The canonical form: strictly rising addresses. An unlisted address reads as nothing, so no entry can equal it. -/
def Memory.wf : Memory → Bool
  | [] => true
  | [_] => true
  | a :: b :: rest => decide (a.1 < b.1) && Memory.wf (b :: rest)

/-- The byte at an address, where one is known. -/
def Memory.readByte (m : Memory) (addr : Nat) : Option Byte :=
  match m with
  | [] => none
  | cell :: rest => if cell.1 = addr then some cell.2 else Memory.readByte rest addr

/-- Byte lane `k` of a value of `n` bytes (R38). -/
def laneByte (order : ByteOrder) (n : Nat) {w : Nat} (v : BitVec w) (k : Nat) : Byte :=
  match order with
  | .little => v.extractLsb' (8 * k) 8
  | .big => v.extractLsb' (8 * (n - 1 - k)) 8

/-- Lanes `k` on, `count` of them, from the address of lane 0. -/
def lanesFrom (order : ByteOrder) (n : Nat) {w : Nat} (v : BitVec w) (base : Nat) : Nat → Nat → Memory
  | _, 0 => []
  | k, count + 1 => (base + k, laneByte order n v k) :: lanesFrom order n v base (k + 1) count

/-- The bytes PMMIR occupies: `PMU_BASE + 0xE40` on, `W/8` of them; none where the register does not exist (R26, R36). -/
def pmmirMemory (c : Config) : Memory :=
  if c.present then
    lanesFrom c.byteOrder c.regBytes (pmmirValue c.width c) (pmmirAddress c) 0 c.regBytes
  else []

/-- The address space as a state shows it. -/
def State.memory (s : State) : Memory := pmmirMemory s.config

/-- The number that `count` bytes from lane `k` make, or nothing where one of them is not known. -/
def Memory.assembleFrom (m : Memory) (order : ByteOrder) (n base : Nat) : Nat → Nat → Option Nat
  | _, 0 => some 0
  | k, count + 1 =>
    match m.readByte (base + k), m.assembleFrom order n base (k + 1) count with
    | some b, some rest =>
      match order with
      | .little => some (b.toNat * 2 ^ (8 * k) + rest)
      | .big => some (b.toNat * 2 ^ (8 * (n - 1 - k)) + rest)
    | _, _ => none

/-- The number in `n` bytes at `addr`, in the given order. -/
def Memory.assemble (m : Memory) (order : ByteOrder) (addr n : Nat) : Option Nat := m.assembleFrom order n addr 0 n

end Sys2Proof.Machine
end

