-- ==== Sys2Proof/Machine/Flags.lean ====
section
/-!
DEFINITION. What the fields of the register indicate: the decoding helpers of spec/10_state.md R33 and the bounds of
R15 to R22. The hardware has no flags or condition codes (R30), and the four operations write none (R51 to R54); these
readings are what a reader of the value draws from it, outside the hardware (R57).
-/

namespace Sys2Proof.Machine

/-- What `EDGE` says (R15). -/
inductive EdgeMeaning where
  | notImplemented
  | implemented
  | reserved
  deriving DecidableEq, Repr

/-- `edge_meaning` (R33). -/
def edgeMeaning (e : BitVec 4) : EdgeMeaning :=
  if e = 0 then .notImplemented else if e = 1 then .implemented else .reserved

/-- What `THWIDTH` says (R16). -/
inductive ThBits where
  | none
  | some (w : Nat)
  | reserved
  deriving DecidableEq, Repr

/-- `th_bits` (R33). -/
def thBits (t : BitVec 4) : ThBits :=
  if t = 0 then .none else if t.toNat ≤ 12 then .some t.toNat else .reserved

/-- A range of bits of the field `PMU.PMEVTYPER<n>.TH`. -/
inductive BitRange where
  | empty
  | bits (hi lo : Nat)
  deriving DecidableEq, Repr

/-- `th_max`, the largest value that can be written to the TH field (R18, R33); undefined outside 1 to 12. -/
def thMax (t : BitVec 4) : Option Nat :=
  match thBits t with
  | .some w => some (2 ^ w - 1)
  | .none => none
  | .reserved => none

/-- `th_res0`, the bits of the TH field that are RES0 (R17, R33); undefined outside 1 to 12. -/
def thRes0 (t : BitVec 4) : Option BitRange :=
  match thBits t with
  | .some w => some (if w = 12 then .empty else .bits 11 w)
  | .none => none
  | .reserved => none

/-- The usable bits of the TH field (R16, R17). -/
def thUsable (t : BitVec 4) : Option BitRange :=
  match thBits t with
  | .some w => some (.bits (w - 1) 0)
  | .none => some .empty
  | .reserved => none

/-- What `BUS_WIDTH` says (R19). -/
inductive BusBytes where
  | notAvailable
  | some (bytes : Nat)
  | reserved
  deriving DecidableEq, Repr

/-- `bus_bytes` (R33): the table of R19, not its formula, says which values are allowed. -/
def busBytes (b : BitVec 4) : BusBytes :=
  if b = 0 then .notAvailable
  else if 3 ≤ b.toNat ∧ b.toNat ≤ 12 then .some (2 ^ (b.toNat - 1))
  else .reserved

/-- "Log2(number of bytes), plus one" (R19, R57). -/
def busWidthFor (bytes : Nat) : Nat := bytes.log2 + 1

/-- The most bytes one access counted by BUS_ACCESS has, where the field promises it (R20). -/
def busAccessMaxBytes (c : Config) : Option Nat :=
  match busBytes c.busWidth with
  | .some n => some n
  | .notAvailable => none
  | .reserved => none

/-- The most by which BUS_ACCESS might increment in one BUS_CYCLES cycle, where the field promises it (R21, R65). -/
def busAccessMaxIncrement (c : Config) : Option Nat := if c.busSlots = 0 then none else some c.busSlots.toNat

/-- The most by which STALL_SLOT might increment in one cycle, where the event is implemented (R22, R65). -/
def stallSlotMaxIncrement (c : Config) : Option Nat := if c.stallSlotImpl then some c.slots.toNat else none

end Sys2Proof.Machine
end

