-- ==== Sys2Proof/Machine/Ops.lean ====
section
/-!
DEFINITION. The shared operations: recording an outcome, the `Error`, the draws, the common outcome function of all
four operations (spec/40_register_access.md R50), the refusal of a transaction that is no operation (R55), and the
moves of the environment (R27, R56, R68).
-/

namespace Sys2Proof.Machine

/-! ### Updates of the state -/

/-- Record the outcome of the transaction that has just been performed (R56). -/
def respond (r : Response) (s : State) : State := { s with responses := s.responses ++ [r] }

/-- TAKING THE ERROR: the response to the transaction itself, with no code, no data, no saved state and no change of
mode; nothing is entered, so nothing returns (spec/60_exceptions.md R58, R59, R60, R64; log entry 12). -/
def takeError (s : State) : State := respond .error s

/-- Count one free value as taken (R9; log entry 5). -/
def countDraw (s : State) : State := { s with draws := s.draws + 1 }

/-- `draw { a, b }` as the outcome of a transaction: a free value chooses, and nothing the model controls (R9). -/
def respondDrawn (a b : Response) (s : State) : State :=
  countDraw (respond (if Config.freeChoice s.draws then a else b) s)

/-- Take the head event off the agenda, leaving `rest`. -/
def withAgenda (rest : List Event) (s : State) : State := { s with agenda := rest }

/-- The Core power domain goes to `p` (R27). -/
def withPower (p : CorePower) (s : State) : State := { s with corePower := p }

/-- `ACCESS_ALLOWED` becomes `allowed` (R56, R63). -/
def withAccess (allowed : Bool) (s : State) : State := { s with accessAllowed := allowed }

/-! ### The environment -/

/-- A move of the environment. A reset is the identity on the register and a draw on `CorePower` (R68); on the
accessibility, of which the spec says nothing, it is a draw as well (log entry 23). -/
def envMove (m : EnvMove) (s : State) : State :=
  match m with
  | .power p => withPower p s
  | .access allowed => withAccess allowed s
  | .reset => countDraw (withAccess (Config.freeChoice s.draws) (withPower (Config.freePower s.draws) s))

/-! ### A transaction -/

/-- The answer to a write of the register that is present and powered: nothing is written, and `RO_WRITE_RESPONSE`
says which response comes (R50). -/
def writeResponse (s : State) : State :=
  match s.config.roWriteResponse with
  | .ok => respond .ok s
  | .error => takeError s
  | .draw => respondDrawn .ok .error s

/-- `AccessOutcome` (R50): the checks in its order, after the refusal of a configuration that is not well formed (R25;
that it comes first, before the accessibility, is log entry 11, DESIGN CHOICE) and with the "require" of R51 to R54
where R55 tests it. `notPresent` is `NotPresentResult`, `normal` the last branch. -/
def accessOutcome (admitted : Bool) (notPresent : Response) (normal : State → State) (s : State) :
    Host.Outcome State Fault Refusal :=
  if !s.config.admissible then .refused .configuration
  else if !s.accessAllowed then .refused .accessibilityNotInSource
  else if !admitted then .refused .size
  else if s.config.present then
    if s.corePower = .on then .next (normal s) else .next (takeError s)
  else
    if s.corePower = .on then .next (respond notPresent s) else .next (respondDrawn .error notPresent s)

/-- A transaction that matches no row of R45: the refusal of R55, its reasons in its order. -/
def refuseUnmatched (u : Unmatched) (s : State) : Host.Outcome State Fault Refusal :=
  if !s.accessAllowed then .refused .accessibilityNotInSource
  else
    match u with
    | .size => .refused .size
    | .overlap => .refused .overlap
    | .outOfScope => .refused .outOfScope

end Sys2Proof.Machine
end

