-- ==== Sys2Proof/Machine/RegisterAccess.lean ====
section
/-!
DEFINITION. The meanings of the four operations (spec/40_register_access.md R51 to R54), each over the common outcome
function of R50.
-/

namespace Sys2Proof.Machine

/-- `PMMIR.RD32` (R51). -/
def execRd32 (s : State) : Host.Outcome State Fault Refusal :=
  accessOutcome (Instr.admitted s.config .rd32) (.ok32 0) (respond (.ok32 (pmmirValue 32 s.config))) s

/-- `PMMIR.RD64` (R52). -/
def execRd64 (s : State) : Host.Outcome State Fault Refusal :=
  accessOutcome (Instr.admitted s.config .rd64) (.ok64 0) (respond (.ok64 (pmmirValue 64 s.config))) s

/-- `PMMIR.WR32` (R53): the data is entirely ignored. -/
def execWr32 (data : Word32) (s : State) : Host.Outcome State Fault Refusal :=
  accessOutcome (Instr.admitted s.config (.wr32 data)) .ok writeResponse s

/-- `PMMIR.WR64` (R54): the data is entirely ignored. -/
def execWr64 (data : Word64) (s : State) : Host.Outcome State Fault Refusal :=
  accessOutcome (Instr.admitted s.config (.wr64 data)) .ok writeResponse s

end Sys2Proof.Machine
end

