-- ==== Sys2Proof/Machine/Dispatch.lean ====
section
/-!
DEFINITION. One arm per operation: the rows of spec/opcode_table.json to their meanings.
-/

namespace Sys2Proof.Machine

def exec (i : Instr) (s : State) : Host.Outcome State Fault Refusal :=
  match i with
  | .rd32 => Sys2Proof.Machine.execRd32 s
  | .rd64 => Sys2Proof.Machine.execRd64 s
  | .wr32 data => Sys2Proof.Machine.execWr32 data s
  | .wr64 data => Sys2Proof.Machine.execWr64 data s

end Sys2Proof.Machine
end

