-- ==== Sys2Proof/Machine/Events.lean ====
section
/-!
DEFINITION. What a step does with an event of the agenda (spec/40_register_access.md R56), and how an event gets there.
-/

namespace Sys2Proof.Machine

/-- The agent performs a transaction: its operation by the table of R45, or the refusal of R55. -/
def perform (t : Txn) (s : State) : Host.Outcome State Fault Refusal :=
  match decode s.config t with
  | .ok i => exec i s
  | .error u => refuseUnmatched u s

/-- An event happens: (a) or (b) of R56. -/
def happen (e : Event) (s : State) : Host.Outcome State Fault Refusal :=
  match e with
  | .transaction t => perform t s
  | .environment m => .next (envMove m s)

/-- With nothing left the run has ended (R56), and a step changes nothing (log entry 13). -/
def idle (s : State) : Host.Outcome State Fault Refusal := .next s

/-- Put a transaction where the next step takes its event. -/
def place (t : Txn) (s : State) : State := withAgenda (.transaction t :: s.agenda) s

/-- Put the transaction of a table word there; a word that denotes none places nothing (log entries 15, 16). -/
def placeTableWord (nbits w : Nat) (s : State) : State :=
  match txnOfTableWord nbits w with
  | some t => place t s
  | none => s

end Sys2Proof.Machine
end

