-- ==== Sys2Proof/Machine/Step.lean ====
section
/-!
DEFINITION. One step of the machine (spec/40_register_access.md R56): the head of the agenda happens, a transaction of
the agent or a move of the environment.
-/

namespace Sys2Proof.Machine

/-- One step. A configuration that is not well formed gets no meaning (R25), whatever the
head of the agenda and the accessibility are (log entries 11 and 14). -/
def step (s : State) : Host.Outcome State Fault Refusal :=
  if !s.config.admissible then .refused .configuration
  else
    match s.agenda with
    | [] => idle s
    | e :: rest => happen e (withAgenda rest s)

/-- The transaction a table word denotes, placed where the step takes its next event (log entries 15, 16). -/
def State.withFetchWord (s : State) (nbits w : Nat) : State := placeTableWord nbits w s

end Sys2Proof.Machine
end

