-- ==== Sys2Proof/Safety.lean ====
section
/-!
DEFINITION. The terms in which claims speak of runs (spec/40_register_access.md R56): what must hold before an access
(spec/70_reset_and_hazards.md R69), which recorded outcomes an implementation can have given (R24, R50), and which
agendas no step refuses.
-/

namespace Sys2Proof.Machine

/-- `k` steps from a state, ending early where one is refused: a refusal marks the whole run (R55, R56). -/
def run : Nat → State → Host.Outcome State Fault Refusal
  | 0, s => .next s
  | k + 1, s =>
    match step s with
    | .next t => run k t
    | .fault r => .fault r
    | .refused r => .refused r

/-- The premises of an access that carry no claim about the register: an implementation the spec describes, and the
open predicate of R63. -/
def State.accessible (s : State) : Bool := s.config.admissible && s.accessAllowed

/-- "For a read to return the register's value, three things must hold" (R69), beside the well-formed configuration. -/
def State.ready (s : State) : Bool := s.accessible && s.config.present && s.corePower == .on

/-- A state from which a run of some implementation may begin: PMMIR at the configuration's value (R28), any power state
and accessibility, and nothing on the agenda or on record yet (DESIGN CHOICE, log entry 16). The reset MOVE of the
environment leaves the run as it is (log entry 23), so a state it leaves need not be one of these. -/
def State.AfterReset (s : State) : Prop :=
  s.config.admissible = true ∧ s.agenda = [] ∧ s.responses = []

/-- The value a read of `w` bits returns: the register's, or zero where there is no register (R23, R50). -/
def readValue (w : Nat) (c : Config) : BitVec w := if c.present then pmmirValue w c else 0

/-- The outcomes an implementation can give (R50): a completed read returned the one value of its width; a write of a
register that is present completed only if `RO_WRITE_RESPONSE` lets it. -/
def Response.possible (c : Config) : Response → Prop
  | .ok32 v => c.pExt64 = false ∧ v = readValue 32 c
  | .ok64 v => c.pExt64 = true ∧ v = readValue 64 c
  | .ok => c.present = true → c.roWriteResponse ≠ .error
  | .error => True

/-- Every outcome recorded so far is one the implementation can give. -/
def State.Faithful (s : State) : Prop := ∀ r ∈ s.responses, Response.possible s.config r

/-- An event no step of configuration `c` refuses while the interface is accessible: an operation the configuration
admits, or a move that leaves the accessibility alone. -/
def Event.harmless (c : Config) : Event → Bool
  | .transaction t =>
    match decodeRow t with
    | some i => i.admitted c
    | none => false
  | .environment (.power _) => true
  | .environment (.access _) => false
  | .environment .reset => false

/-- The outcome is one of the operation's direction and width: its data or completion, or the `Error` (R9, R51 to R54). -/
def Response.answers : Instr → Response → Prop
  | .rd32, r => r = .error ∨ ∃ v, r = .ok32 v
  | .rd64, r => r = .error ∨ ∃ v, r = .ok64 v
  | .wr32 _, r => r = .error ∨ r = .ok
  | .wr64 _, r => r = .error ∨ r = .ok

/-- `NotPresentResult` of R50: a zero of the operation's width, or a completed write. -/
def absentResult : Instr → Response
  | .rd32 => .ok32 0
  | .rd64 => .ok64 0
  | .wr32 _ => .ok
  | .wr64 _ => .ok

/-- The same state of an implementation that stands at another base and has another byte order (R35, R38). -/
def State.relocate (base : Nat) (order : ByteOrder) (s : State) : State :=
  { s with config := { s.config with pmuBase := base, byteOrder := order } }

/-- How many transactions an agenda holds. -/
def transactionCount : List Event → Nat
  | [] => 0
  | .transaction _ :: rest => transactionCount rest + 1
  | .environment _ :: rest => transactionCount rest

/-- A response that carries a register value. -/
def Response.readData : Response → Option Nat
  | .ok32 v => some v.toNat
  | .ok64 v => some v.toNat
  | .ok => none
  | .error => none

end Sys2Proof.Machine
end

