-- ==== Sys2Proof/Certificates/Slice0/Obligations.lean ====
section
/-!
DEFINITION. The statements for the provers. Each docstring names the rule of spec/ it formalises, and the log entry
where a clause rests on a choice of the spec's or the model's own. A statement about a `draw` names the free value
(`Config.freeChoice`, `Config.freePower`), of which nothing is known, and so holds for every choice.
-/

open Sys2Proof Sys2Proof.Machine

/-! ### Transactions, decoding, encoding -/

/-- Every operation, whatever its data, comes back from its word (the word form is the model's own, log entry 15). -/
def Obligations.DecodeOfEncodedWord : Prop :=
  ∀ i : Instr, decodeWord (encodeWord i) = some i

/-- A word that denotes a transaction is that transaction's word, so no two words denote the same transaction and no
bit of a word is dropped (log entry 15). -/
def Obligations.TransactionHasOneWord : Prop :=
  ∀ (w : TxnWord) (t : Txn), Txn.ofWord w = .ok t → t.toWord = w

/-- The table of R45 (the tuple is the spec's decision D20), in both directions, and its last row: decoding is total
and gives each operation for exactly the tuple the table gives it; the column "admitted when" is the last clause. -/
def Obligations.DecodingIsTheTable : Prop :=
  ∀ (c : Config) (t : Txn),
    (decode c t = .ok .rd32 ↔ t = { block := .pmu, offset := 0xE40, transfer := .read 4 }) ∧
    (decode c t = .ok .rd64 ↔ t = { block := .pmu, offset := 0xE40, transfer := .read 8 }) ∧
    (∀ d : Word32, decode c t = .ok (.wr32 d) ↔ t = { block := .pmu, offset := 0xE40, transfer := .write 4 d }) ∧
    (∀ d : Word64, decode c t = .ok (.wr64 d) ↔ t = { block := .pmu, offset := 0xE40, transfer := .write 8 d }) ∧
    ((∀ i, decode c t ≠ .ok i) → ∃ u, decode c t = .error u) ∧
    (∀ (d : Word32) (d' : Word64),
      (Instr.rd32.admitted c = true ↔ c.pExt64 = false) ∧ (Instr.rd64.admitted c = true ↔ c.pExt64 = true) ∧
      ((Instr.wr32 d).admitted c = true ↔ c.pExt64 = false) ∧ ((Instr.wr64 d').admitted c = true ↔ c.pExt64 = true))

/-- A few words written out from the table of R45: the offset alone (Read, PMU, 4 bytes), then with the size byte 4 (8
bytes), the direction byte 1 (Write) and data; and a word of another offset. (The word form is the model's own, log
entry 15.) -/
def Obligations.WrittenOutWordsDecode : Prop :=
  decodeTableWord 64 0xE40 = some .rd32 ∧
  decodeTableWord 160 0x4_00_00_0000000000000E40 = some .rd64 ∧
  decodeTableWord 160 0x12345678_00_00_00_01_0000000000000E40 = some (.wr32 0x12345678) ∧
  decodeTableWord 160 0xFEDCBA9876543210_00_04_00_01_0000000000000E40 = some (.wr64 0xFEDCBA9876543210) ∧
  decodeTableWord 64 0xE44 = none

/-- The encoded read and write are `MemRead` and `MemWrite` at `PMU_BASE + 0xE40` of R51 to R54, for every base (R35;
a natural number, log entry 18). -/
def Obligations.OperationsAddressPmuBasePlusOffset : Prop :=
  ∀ (c : Config) (d : Word32) (d' : Word64) (i : Instr),
    encode .rd32 = memRead c (c.pmuBase + 0xE40) 4 ∧ encode .rd64 = memRead c (c.pmuBase + 0xE40) 8 ∧
    encode (.wr32 d) = memWrite c (c.pmuBase + 0xE40) 4 d ∧ encode (.wr64 d') = memWrite c (c.pmuBase + 0xE40) 8 d' ∧
    (encode i).address c = some (c.pmuBase + 0xE40)

/-! ### A step -/

/-- When the head of the agenda is a transaction that decodes to an operation, the step is that operation, performed
with the rest of the agenda left (R56 (a); the one agenda is log entry 4, DESIGN CHOICE). -/
def Obligations.StepRunsTheDecodedOperation : Prop :=
  ∀ (s : State) (t : Txn) (i : Instr) (rest : List Event), s.config.admissible = true →
    s.agenda = .transaction t :: rest → decode s.config t = .ok i → step s = exec i { s with agenda := rest }

/-- A table word that decodes to an operation, placed where the next step takes its event, runs as the very next step
(log entries 15 and 16). -/
def Obligations.PlacedWordIsTheNextOperation : Prop :=
  ∀ (s : State) (nbits w : Nat) (i : Instr), s.config.admissible = true → decodeTableWord nbits w = some i →
    step (s.withFetchWord nbits w) = exec i s

/-- The moves of the environment (R27, R56 (b), R68): a power move and an accessibility move change what they name; a
reset leaves the register and the run and draws the environment (a draw is a free value, log entry 5; of the
accessibility: log entry 23); with an empty agenda nothing happens (log entry 13). -/
def Obligations.StepOfTheEnvironment : Prop :=
  ∀ (s : State) (rest : List Event), s.config.admissible = true →
    (∀ p, s.agenda = .environment (.power p) :: rest → step s = .next { s with agenda := rest, corePower := p }) ∧
    (∀ b, s.agenda = .environment (.access b) :: rest → step s = .next { s with agenda := rest, accessAllowed := b }) ∧
    (s.agenda = .environment .reset :: rest →
      step s = .next { s with agenda := rest, corePower := Config.freePower s.draws,
                              accessAllowed := Config.freeChoice s.draws, draws := s.draws + 1 }) ∧
    (s.agenda = [] → step s = .next s)

/-- A transaction that is no operation is refused, with the reasons of R55 in their order (log entry 10); "the bytes
meet" is said as a byte that lies in both ranges (R36, R39). That other blocks are names and that a transaction of no
bytes meets none is log entry 24. -/
def Obligations.UnmatchedTransactionIsRefused : Prop :=
  ∀ (s : State) (t : Txn) (rest : List Event), s.config.admissible = true →
    s.agenda = .transaction t :: rest → (∀ i, t ≠ encode i) →
    (s.accessAllowed = false → step s = .refused .accessibilityNotInSource) ∧
    (s.accessAllowed = true →
      (t.block = .pmu → t.offset = 0xE40 → step s = .refused .size) ∧
      (t.block = .pmu → t.offset ≠ 0xE40 →
        (∃ b, t.offset ≤ b ∧ b < t.offset + t.size ∧ 0xE40 ≤ b ∧ b < 0xE40 + s.config.width / 8) →
        step s = .refused .overlap) ∧
      (t.block = .pmu → t.offset ≠ 0xE40 →
        (¬ ∃ b, t.offset ≤ b ∧ b < t.offset + t.size ∧ 0xE40 ≤ b ∧ b < 0xE40 + s.config.width / 8) →
        step s = .refused .outOfScope) ∧
      (t.block ≠ .pmu → step s = .refused .outOfScope))

/-! ### The four operations -/

/-- Every operation the configuration admits completes, with one outcome of its own direction, whenever the interface
is accessible: no power state, presence or data makes it stop (R50, R56; that the interface always answers is the
spec's decision D23, log entry 21; the absent register rests on log entries 7 and 11). -/
def Obligations.EveryAdmittedOperationCompletes : Prop :=
  ∀ (i : Instr) (s : State), s.config.admissible = true → s.accessAllowed = true → i.admitted s.config = true →
    ∃ s' r, exec i s = .next s' ∧ s'.responses = s.responses ++ [r] ∧ r.answers i

/-- R51 (with R50, R55, R61 where it refers to them: log entries 6, 7, 10, 11). The value, the `Error`, the absent
register (with R61's draw where the domain is not on), the other configuration's refusal; fields that are all zero
read as the absent register does; two successive completed reads are equal, with bits 31 to 28 zero. -/
def Obligations.Read32 : Prop :=
  ∀ s : State, s.config.admissible = true → s.accessAllowed = true →
    (s.config.pExt64 = false → s.config.present = true → s.corePower = .on →
      exec .rd32 s = .next { s with responses := s.responses ++
        [.ok32 ((s.config.edge ++ s.config.thWidth ++ s.config.busWidth ++ s.config.busSlots ++ s.config.slots).zeroExtend 32)] }) ∧
    (s.config.pExt64 = false → s.config.present = true → s.corePower ≠ .on →
      exec .rd32 s = .next { s with responses := s.responses ++ [.error] }) ∧
    (s.config.pExt64 = false → s.config.present = false → s.corePower = .on →
      exec .rd32 s = .next { s with responses := s.responses ++ [.ok32 0] }) ∧
    (s.config.pExt64 = false → s.config.present = false → s.corePower ≠ .on →
      exec .rd32 s = .next { s with responses := s.responses ++ [if Config.freeChoice s.draws then .error else .ok32 0],
                                    draws := s.draws + 1 }) ∧
    (s.config.pExt64 = true → exec .rd32 s = .refused .size) ∧
    (s.config.pExt64 = false → s.corePower = .on → s.config.edge = 0 → s.config.thWidth = 0 → s.config.busWidth = 0 →
      s.config.busSlots = 0 → s.config.slots = 0 →
      exec .rd32 s = .next { s with responses := s.responses ++ [.ok32 0] }) ∧
    (∀ s1 s2 v1 v2, exec .rd32 s = .next s1 → s1.responses = s.responses ++ [.ok32 v1] →
      exec .rd32 s1 = .next s2 → s2.responses = s1.responses ++ [.ok32 v2] → v1 = v2 ∧ v1.extractLsb' 28 4 = 0)

/-- R52 (log entries 6, 7, 10, 11 as for R51). As R51 for the 64-bit form; the value's bits 63 to 28 are zero and it
is the 32-bit value zero-extended. -/
def Obligations.Read64 : Prop :=
  ∀ s : State, s.config.admissible = true → s.accessAllowed = true →
    (s.config.pExt64 = true → s.config.present = true → s.corePower = .on →
      ∃ v : Word64, exec .rd64 s = .next { s with responses := s.responses ++ [.ok64 v] } ∧
        v.toNat = s.config.edge.toNat * 2 ^ 24 + s.config.thWidth.toNat * 2 ^ 20 + s.config.busWidth.toNat * 2 ^ 16
          + s.config.busSlots.toNat * 2 ^ 8 + s.config.slots.toNat ∧
        v.extractLsb' 28 36 = 0 ∧ v = (pmmirValue 32 s.config).zeroExtend 64) ∧
    (s.config.pExt64 = true → s.config.present = true → s.corePower ≠ .on →
      exec .rd64 s = .next { s with responses := s.responses ++ [.error] }) ∧
    (s.config.pExt64 = true → s.config.present = false → s.corePower = .on →
      exec .rd64 s = .next { s with responses := s.responses ++ [.ok64 0] }) ∧
    (s.config.pExt64 = true → s.config.present = false → s.corePower ≠ .on →
      exec .rd64 s = .next { s with responses := s.responses ++ [if Config.freeChoice s.draws then .error else .ok64 0],
                                    draws := s.draws + 1 }) ∧
    (s.config.pExt64 = false → exec .rd64 s = .refused .size)

/-- R53 (log entries 5, 7, 9, 10, 11). The response by `RO_WRITE_RESPONSE`, the `Error`, the absent register, the
other configuration's refusal; no state written whatever the data is, all data alike, and a following read returns
what it would have returned. That all data behave alike is said from one state, so for the same free values (log entry
5). -/
def Obligations.Write32 : Prop :=
  ∀ (s : State) (d : Word32), s.config.admissible = true → s.accessAllowed = true →
    (s.config.pExt64 = false → s.config.present = true → s.corePower = .on →
      (s.config.roWriteResponse = .ok →
        exec (.wr32 d) s = .next { s with responses := s.responses ++ [.ok] }) ∧
      (s.config.roWriteResponse = .error →
        exec (.wr32 d) s = .next { s with responses := s.responses ++ [.error] }) ∧
      (s.config.roWriteResponse = .draw →
        exec (.wr32 d) s = .next { s with responses := s.responses ++ [if Config.freeChoice s.draws then .ok else .error],
                                          draws := s.draws + 1 })) ∧
    (s.config.pExt64 = false → s.config.present = true → s.corePower ≠ .on →
      exec (.wr32 d) s = .next { s with responses := s.responses ++ [.error] }) ∧
    (s.config.pExt64 = false → s.config.present = false → s.corePower = .on →
      exec (.wr32 d) s = .next { s with responses := s.responses ++ [.ok] }) ∧
    (s.config.pExt64 = false → s.config.present = false → s.corePower ≠ .on →
      exec (.wr32 d) s = .next { s with responses := s.responses ++ [if Config.freeChoice s.draws then .error else .ok],
                                        draws := s.draws + 1 }) ∧
    (s.config.pExt64 = true → exec (.wr32 d) s = .refused .size) ∧
    (∀ d', exec (.wr32 d') s = exec (.wr32 d) s) ∧
    (∀ s1 s2 s3 v v', exec (.wr32 d) s = .next s1 →
      exec .rd32 s = .next s2 → s2.responses = s.responses ++ [.ok32 v] →
      exec .rd32 s1 = .next s3 → s3.responses = s1.responses ++ [.ok32 v'] → v = v')

/-- R54 (log entries 5, 7, 9, 10, 11). As R53 for the 64-bit form. That all data behave alike is said from one state,
so for the same free values (log entry 5). -/
def Obligations.Write64 : Prop :=
  ∀ (s : State) (d : Word64), s.config.admissible = true → s.accessAllowed = true →
    (s.config.pExt64 = true → s.config.present = true → s.corePower = .on →
      (s.config.roWriteResponse = .ok →
        exec (.wr64 d) s = .next { s with responses := s.responses ++ [.ok] }) ∧
      (s.config.roWriteResponse = .error →
        exec (.wr64 d) s = .next { s with responses := s.responses ++ [.error] }) ∧
      (s.config.roWriteResponse = .draw →
        exec (.wr64 d) s = .next { s with responses := s.responses ++ [if Config.freeChoice s.draws then .ok else .error],
                                          draws := s.draws + 1 })) ∧
    (s.config.pExt64 = true → s.config.present = true → s.corePower ≠ .on →
      exec (.wr64 d) s = .next { s with responses := s.responses ++ [.error] }) ∧
    (s.config.pExt64 = true → s.config.present = false → s.corePower = .on →
      exec (.wr64 d) s = .next { s with responses := s.responses ++ [.ok] }) ∧
    (s.config.pExt64 = true → s.config.present = false → s.corePower ≠ .on →
      exec (.wr64 d) s = .next { s with responses := s.responses ++ [if Config.freeChoice s.draws then .error else .ok],
                                        draws := s.draws + 1 }) ∧
    (s.config.pExt64 = false → exec (.wr64 d) s = .refused .size) ∧
    (∀ d', exec (.wr64 d') s = exec (.wr64 d) s) ∧
    (∀ s1 s2 s3 v v', exec (.wr64 d) s = .next s1 →
      exec .rd64 s = .next s2 → s2.responses = s.responses ++ [.ok64 v] →
      exec .rd64 s1 = .next s3 → s3.responses = s1.responses ++ [.ok64 v'] → v = v')

/-- R58. A transaction on PMMIR performed while the domain is off or in a low-power state has the outcome `Error`, for
all four operations; it is the only error, so a read performed while the domain is on never has one. (That nothing else
changes is `OperationsChangeNothing`; where the register is absent: C14, R61 and the statements about it below.) -/
def Obligations.ErrorWhenTheDomainIsNotOn : Prop :=
  ∀ (i : Instr) (s : State), s.config.admissible = true → s.accessAllowed = true → i.admitted s.config = true →
    s.config.present = true →
    ((s.corePower = .off ∨ s.corePower = .lowPower) →
      ∃ s', exec i s = .next s' ∧ s'.responses = s.responses ++ [.error]) ∧
    (s.corePower = .on → (i = .rd32 ∨ i = .rd64) →
      ∃ s' r, exec i s = .next s' ∧ s'.responses = s.responses ++ [r] ∧ r ≠ .error)

/-- R61, the spec's decision D12 (log entry 11): a register that is absent, in a domain that is not on. The source
gives `Error` and RES0 both; a free value (log entry 5) chooses between `Error` and the result of the reading of RES0
(log entry 7), the same operations completing either way. -/
def Obligations.AbsentAndUnpoweredIsDrawn : Prop :=
  ∀ (i : Instr) (s : State), s.config.present = false → s.accessAllowed = true → i.admitted s.config = true →
    s.corePower ≠ .on →
    exec i s = .next { s with responses := s.responses ++ [if Config.freeChoice s.draws then .error else absentResult i],
                              draws := s.draws + 1 }

/-- R4 and the reading of RES0 in R50 (log entry 7): without either feature there is no register, its bytes are not
known, a read returns zero and a write is ignored and completes, whatever the field parameters are (they are not
consulted, R26; log entry 14). -/
def Obligations.AbsentRegisterIsRes0 : Prop :=
  ∀ (s : State) (d : Word32) (d' : Word64), (s.config.pExt = false ∨ s.config.pV3p4 = false) →
    s.pmmir = none ∧ s.memory = [] ∧
    (s.accessAllowed = true → s.corePower = .on →
      (s.config.pExt64 = false →
        exec .rd32 s = .next { s with responses := s.responses ++ [.ok32 0] } ∧
        exec (.wr32 d) s = .next { s with responses := s.responses ++ [.ok] }) ∧
      (s.config.pExt64 = true →
        exec .rd64 s = .next { s with responses := s.responses ++ [.ok64 0] } ∧
        exec (.wr64 d') s = .next { s with responses := s.responses ++ [.ok] }))

/-- R63, the spec's decision D13 (log entry 3): while `ACCESS_ALLOWED` is false every transaction, an operation or
not, is refused under that name. (An admissible configuration is a premise because the model checks the configuration
first, log entry 11.) -/
def Obligations.InaccessibleIsRefused : Prop :=
  ∀ s : State, s.config.admissible = true → s.accessAllowed = false →
    (∀ i, exec i s = .refused .accessibilityNotInSource) ∧
    (∀ t rest, s.agenda = .transaction t :: rest → step s = .refused .accessibilityNotInSource)

/-- R25, the spec's decision D18: what well formed means, condition by condition, and that a configuration whose
register is present and that is not well formed gets no meaning at all (that only a present register's configuration
is looked at, and at every step, is log entry 14, DEDUCED). The configuration is checked before everything else, before
the accessibility that R50 and R61 test first: the refusal is named `configuration` even where `ACCESS_ALLOWED` is
false. That place in the order is the model's own choice (log entry 11, DESIGN CHOICE), no rule of the spec. -/
def Obligations.IllFormedConfigurationIsRefused : Prop :=
  (∀ c : Config, c.wf = true ↔
    ((c.edge = 0 ∨ c.edge = 1) ∧ (c.edge = 1 ↔ c.pEdge = true) ∧ c.thWidth.toNat ≤ 12 ∧ (c.thWidth ≠ 0 ↔ c.pTh = true) ∧
      (c.busWidth = 0 ∨ (3 ≤ c.busWidth.toNat ∧ c.busWidth.toNat ≤ 12)) ∧
      (c.busCountAvailable = false → c.busSlots = 0))) ∧
  (∀ s : State, s.config.present = true → s.config.wf = false →
    (∀ i, exec i s = .refused .configuration) ∧ step s = .refused .configuration)

/-- The FRAME of all four operations (R40, R50 "In no branch is any state written", R60): a next state differs from
the state before by one outcome at the end of the list, and by a counted draw where a free value was used. The
register, every byte of the address space, the power state, the accessibility and the agenda are unchanged. (That an
`Error` changes nothing else is the spec's decision D14, log entry 12; draws and bytes are log entries 5 and 20.) -/
def Obligations.OperationsChangeNothing : Prop :=
  ∀ (i : Instr) (s s' : State), exec i s = .next s' →
    s'.config = s.config ∧ s'.pmmir = s.pmmir ∧ (∀ a, s'.memory.readByte a = s.memory.readByte a) ∧
    s'.corePower = s.corePower ∧ s'.accessAllowed = s.accessAllowed ∧ s'.agenda = s.agenda ∧
    (∃ r, s'.responses = s.responses ++ [r]) ∧ (s'.draws = s.draws ∨ s'.draws = s.draws + 1)

/-! ### The environment's state -/

/-- R27: only the environment changes `CorePower`. A step after which it differs took a power move to that value or a
reset; likewise the accessibility (R56; that a reset draws it is log entry 23). -/
def Obligations.OnlyTheEnvironmentMovesItsState : Prop :=
  ∀ s s' : State, step s = .next s' →
    (s'.corePower ≠ s.corePower →
      ∃ rest, s.agenda = .environment (.power s'.corePower) :: rest ∨ s.agenda = .environment .reset :: rest) ∧
    (s'.accessAllowed ≠ s.accessAllowed →
      ∃ rest, s.agenda = .environment (.access s'.accessAllowed) :: rest ∨ s.agenda = .environment .reset :: rest)

/-- R60, V63: an `Error` is not sticky. The domain goes off (or low), an operation gets its `Error`, the domain comes
back, and a read returns the register's value (that an access port latches nothing is the spec's choice, log entry 12;
that the value is the same after the power change is log entry 8). -/
def Obligations.ErrorIsNotSticky : Prop :=
  ∀ (s : State) (i rd : Instr) (p : CorePower) (rest : List Event),
    s.ready = true → i.admitted s.config = true → p ≠ .on →
    rd = (if s.config.pExt64 then .rd64 else .rd32) →
    s.agenda = .environment (.power p) :: .transaction (encode i) :: .environment (.power .on)
      :: .transaction (encode rd) :: rest →
    ∃ s' r, run 4 s = .next s' ∧ s'.agenda = rest ∧ s'.responses = s.responses ++ [.error, r] ∧
      r.readData = s.pmmir

/-! ### Runs -/

/-- R24, R29: no step, and so no run, changes the register, whatever the agenda holds: writes, power changes, resets
(that the value is constant across those is the spec's choice, log entry 8; the byte view is log entry 20). -/
def Obligations.RegisterIsConstantOverRuns : Prop :=
  ∀ (k : Nat) (s s' : State), run k s = .next s' →
    s'.config = s.config ∧ s'.pmmir = s.pmmir ∧ ∀ a, s'.memory.readByte a = s.memory.readByte a

/-- R24, the headline: over any run, with any writes, power changes and resets between them, every read that completes
returns one and the same value: the register's, or zero where there is no register (log entries 7 and 8). -/
def Obligations.CompletedReadsAgreeOverARun : Prop :=
  ∀ (k : Nat) (s s' : State), run k s = .next s' →
    ∃ more, s'.responses = s.responses ++ more ∧
      ∀ r ∈ more, ∀ v, r.readData = some v → v = s.pmmir.getD 0

/-- The invariant (R24, R37, R50): every outcome on record is one the implementation can have given, in width (log
entry 10), in value (log entries 7 and 8) and in kind (log entries 9 and 11). Every step keeps it, from every state.
-/
def Obligations.StepKeepsOutcomesFaithful : Prop :=
  ∀ s s' : State, s.Faithful → step s = .next s' → s'.Faithful

/-- The base case of `StepKeepsOutcomesFaithful`: a state whose run has not begun (empty agenda, no outcomes yet: log
entry 16, DESIGN CHOICE) has only possible outcomes on record, for every implementation and environment; `State.reset`
is one such state (its configuration and environment are log entries 1, 2 and 3). The states that the environment's
reset move leaves in the middle of a run keep their outcomes (log entry 23) and are not meant here:
`StepKeepsOutcomesFaithful` covers that move. -/
def Obligations.ResetIsFaithful : Prop :=
  (∀ s : State, s.AfterReset → s.Faithful) ∧ State.reset.AfterReset ∧ State.reset.Faithful

/-- R56: with the interface accessible, a list of admitted operations and power moves runs to its end, one step an
event, with one outcome for each transaction; an `Error` on the way does not stop it. That the interface always
answers, in one step, is the spec's decision D23 (log entry 21). -/
def Obligations.AdmittedAgendaRunsToItsEnd : Prop :=
  ∀ s : State, s.config.admissible = true → s.accessAllowed = true →
    (∀ e ∈ s.agenda, Event.harmless s.config e = true) →
    ∃ s', run s.agenda.length s = .next s' ∧ s'.agenda = [] ∧
      s'.responses.length = s.responses.length + transactionCount s.agenda

/-- What the agent learns (R26, R59, R47): the field values and the features they tell of reach an outcome only by a
read of a present register in a powered domain. For the same free values (the two states have equal draw counters, and
that equal counters draw alike is log entry 5, DESIGN CHOICE, which hardware does not promise), two implementations
that differ in nothing else give the same outcome to a write, to any operation while the domain is not on, and to any
operation where the register is absent. -/
def Obligations.FieldsShowOnlyInACompletedRead : Prop :=
  ∀ (i : Instr) (s t s' : State),
    s.config.admissible = true → t.config.admissible = true →
    t.config.pExt = s.config.pExt → t.config.pV3p4 = s.config.pV3p4 → t.config.pExt64 = s.config.pExt64 →
    t.config.roWriteResponse = s.config.roWriteResponse →
    t.corePower = s.corePower → t.accessAllowed = s.accessAllowed → t.responses = s.responses → t.draws = s.draws →
    (s.corePower ≠ .on ∨ s.config.present = false ∨ (i ≠ .rd32 ∧ i ≠ .rd64)) →
    exec i s = .next s' → ∃ t', exec i t = .next t' ∧ t'.responses = s'.responses ∧ t'.draws = s'.draws

/-- R35, R38: no rule depends on `PMU_BASE` or on the byte order. For the same free values (the two states have equal
draw counters, and that equal counters draw alike is log entry 5, DESIGN CHOICE, which hardware does not promise),
with another base and another order every step has the same outcome, base and order aside. (The parameters' form is
log entries 17 and 18.) -/
def Obligations.BaseAndByteOrderDoNotMatter : Prop :=
  ∀ (s : State) (base : Nat) (order : ByteOrder),
    (∀ s', step s = .next s' → step (s.relocate base order) = .next (s'.relocate base order)) ∧
    (∀ r, step s = .refused r → step (s.relocate base order) = .refused r)

/-! ### The register's value -/

/-- R23: the value as a number, in both widths (marked [derived] in R23), with nothing above the fields (log entry 6).
-/
def Obligations.ValueIsAssembledFromTheFields : Prop :=
  ∀ c : Config,
    (pmmirValue 32 c).toNat = c.edge.toNat * 2 ^ 24 + c.thWidth.toNat * 2 ^ 20 + c.busWidth.toNat * 2 ^ 16
      + c.busSlots.toNat * 2 ^ 8 + c.slots.toNat ∧
    (pmmirValue 64 c).toNat = (pmmirValue 32 c).toNat ∧
    slotsOf (pmmirValue 32 c) = c.slots ∧ busSlotsOf (pmmirValue 32 c) = c.busSlots ∧
    busWidthOf (pmmirValue 32 c) = c.busWidth ∧ thWidthOf (pmmirValue 32 c) = c.thWidth ∧
    edgeOf (pmmirValue 32 c) = c.edge ∧
    slotsOf (pmmirValue 64 c) = c.slots ∧ busSlotsOf (pmmirValue 64 c) = c.busSlots ∧
    busWidthOf (pmmirValue 64 c) = c.busWidth ∧ thWidthOf (pmmirValue 64 c) = c.thWidth ∧
    edgeOf (pmmirValue 64 c) = c.edge

/-- R12, R13: the two layouts bit by bit, with the reserved bits carrying no field (they are the same for every
configuration), and the fields read-only: no operation changes one. -/
def Obligations.LayoutOfTheRegister : Prop :=
  (∀ (c c' : Config) (k : Nat),
    (k < 8 → (pmmirValue 64 c).getLsbD k = c.slots.getLsbD k ∧ (pmmirValue 32 c).getLsbD k = c.slots.getLsbD k) ∧
    (8 ≤ k → k < 16 → (pmmirValue 64 c).getLsbD k = c.busSlots.getLsbD (k - 8) ∧
      (pmmirValue 32 c).getLsbD k = c.busSlots.getLsbD (k - 8)) ∧
    (16 ≤ k → k < 20 → (pmmirValue 64 c).getLsbD k = c.busWidth.getLsbD (k - 16) ∧
      (pmmirValue 32 c).getLsbD k = c.busWidth.getLsbD (k - 16)) ∧
    (20 ≤ k → k < 24 → (pmmirValue 64 c).getLsbD k = c.thWidth.getLsbD (k - 20) ∧
      (pmmirValue 32 c).getLsbD k = c.thWidth.getLsbD (k - 20)) ∧
    (24 ≤ k → k < 28 → (pmmirValue 64 c).getLsbD k = c.edge.getLsbD (k - 24) ∧
      (pmmirValue 32 c).getLsbD k = c.edge.getLsbD (k - 24)) ∧
    (28 ≤ k → k < 64 → (pmmirValue 64 c).getLsbD k = (pmmirValue 64 c').getLsbD k) ∧
    (28 ≤ k → k < 32 → (pmmirValue 32 c).getLsbD k = (pmmirValue 32 c').getLsbD k)) ∧
  (∀ (i : Instr) (s s' : State), exec i s = .next s' →
    s'.config.edge = s.config.edge ∧ s'.config.thWidth = s.config.thWidth ∧ s'.config.busWidth = s.config.busWidth ∧
      s'.config.busSlots = s.config.busSlots ∧ s'.config.slots = s.config.slots)

/-- R14: the reserved bits read as zero (the spec's reading of RES0, log entry 6), so the value fits in 28 bits. -/
def Obligations.ReservedBitsReadAsZero : Prop :=
  ∀ c : Config, (pmmirValue 64 c).extractLsb' 28 36 = 0 ∧ (pmmirValue 32 c).extractLsb' 28 4 = 0

/-- R15: the table of EDGE, and the field in a well-formed configuration, 1 exactly if the feature is implemented
(marked [derived] in R15). That no step changes it goes past R15's RO: steps include power moves and resets, over
which the value is constant by the spec's decision D16 (log entry 8, PRESUMED). -/
def Obligations.EdgeField : Prop :=
  edgeMeaning 0 = .notImplemented ∧ edgeMeaning 1 = .implemented ∧
  (∀ e : BitVec 4, e ≠ 0 → e ≠ 1 → edgeMeaning e = .reserved) ∧
  (∀ c : Config, c.wf = true → c.edge = if c.pEdge then 1 else 0) ∧
  (∀ s s' : State, step s = .next s' → s'.config.edge = s.config.edge)

/-- R16 and its general form R17: the table of THWIDTH, with the usable bits of TH and those that are RES0 (the usable
bits and the general form are marked [derived] there). That no step changes the field goes past R16's RO: steps
include power moves and resets (92 D16, log entry 8, PRESUMED). -/
def Obligations.ThWidthField : Prop :=
  thBits 0 = .none ∧ thUsable 0 = some .empty ∧
  (∀ w : BitVec 4, 1 ≤ w.toNat → w.toNat ≤ 12 →
    thBits w = .some w.toNat ∧ thUsable w = some (.bits (w.toNat - 1) 0) ∧
    (w.toNat < 12 → thRes0 w = some (.bits 11 w.toNat)) ∧ (w.toNat = 12 → thRes0 w = some .empty)) ∧
  (∀ w : BitVec 4, 13 ≤ w.toNat → thBits w = .reserved) ∧
  (∀ s s' : State, step s = .next s' → s'.config.thWidth = s.config.thWidth)

/-- R18: `TH_MAX`, and that the field is zero exactly if FEAT_PMUv3_TH is not implemented. (The exponent is the spec's
reading of a lost superscript, 91 N6; the equivalence is marked [derived] in R18.) -/
def Obligations.LargestThresholdValue : Prop :=
  (∀ w : BitVec 4, 1 ≤ w.toNat → w.toNat ≤ 12 → thMax w = some (2 ^ w.toNat - 1)) ∧
  (∀ c : Config, c.wf = true → (c.pTh = true ↔ c.thWidth ≠ 0) ∧ (c.pTh = false → thMax c.thWidth = none))

/-- R19: the table of BUS_WIDTH; where it has a size, the field is the base-2 logarithm of it, plus one. That no step
changes the field goes past R19's RO: steps include power moves and resets (92 D16, log entry 8, PRESUMED). -/
def Obligations.BusWidthField : Prop :=
  busBytes 0 = .notAvailable ∧
  busBytes 3 = .some 4 ∧ busBytes 4 = .some 8 ∧ busBytes 5 = .some 16 ∧ busBytes 6 = .some 32 ∧
  busBytes 7 = .some 64 ∧ busBytes 8 = .some 128 ∧ busBytes 9 = .some 256 ∧ busBytes 10 = .some 512 ∧
  busBytes 11 = .some 1024 ∧ busBytes 12 = .some 2048 ∧
  busBytes 1 = .reserved ∧ busBytes 2 = .reserved ∧ busBytes 13 = .reserved ∧ busBytes 14 = .reserved ∧
  busBytes 15 = .reserved ∧
  (∀ (b : BitVec 4) (n : Nat), busBytes b = .some n → busWidthFor n = b.toNat) ∧
  (∀ s s' : State, step s = .next s' → s'.config.busWidth = s.config.busWidth)

/-- R20, R21, R22, R65: the bounds the fields promise on the events they speak of. (That "BUS_WIDTH bytes" is the
decoded size is marked [derived] in R19 and R20.) -/
def Obligations.EventBoundsFromTheFields : Prop :=
  ∀ c : Config, c.wf = true →
    (c.busWidth = 0 → busAccessMaxBytes c = none) ∧
    (c.busWidth ≠ 0 → busAccessMaxBytes c = some (2 ^ (c.busWidth.toNat - 1))) ∧
    (c.busSlots ≠ 0 → busAccessMaxIncrement c = some c.busSlots.toNat) ∧
    (c.busCountAvailable = false → busAccessMaxIncrement c = none) ∧
    (c.stallSlotImpl = true → stallSlotMaxIncrement c = some c.slots.toNat)

/-- R25, R48 seen by the agent: no read that completes ever shows a reserved value, and a read shows a zero bus count
where the information is not available (R21). Whatever the run, whatever the implementation. (That a reserved value is
refused is the spec's decision D18; the zero above bit 27 is log entry 6, constancy over the run log entry 8.) -/
def Obligations.ReadsNeverShowReservedValues : Prop :=
  ∀ (k : Nat) (s s' : State), s.responses = [] → s.config.present = true → run (k + 1) s = .next s' →
    ∀ r ∈ s'.responses, ∀ v, r.readData = some v →
      edgeMeaning (edgeOf (BitVec.ofNat 64 v)) ≠ .reserved ∧ thBits (thWidthOf (BitVec.ofNat 64 v)) ≠ .reserved ∧
      busBytes (busWidthOf (BitVec.ofNat 64 v)) ≠ .reserved ∧ v < 2 ^ 28 ∧
      (s.config.busCountAvailable = false → busSlotsOf (BitVec.ofNat 64 v) = 0)

/-- R36, R38: the register's bytes, put together in the implementation's byte order, are its value; they stand at
`PMU_BASE + 0xE40` up to its width and nowhere else; and the list of them is in canonical form (byte view: log entries
17 and 20; the base: log entry 18). -/
def Obligations.BytesOfTheRegister : Prop :=
  ∀ s : State, s.config.present = true →
    s.memory.assemble s.config.byteOrder (s.config.pmuBase + 0xE40) (s.config.width / 8) = s.pmmir ∧
    (∀ a, (s.memory.readByte a).isSome = true ↔
      s.config.pmuBase + 0xE40 ≤ a ∧ a < s.config.pmuBase + 0xE40 + s.config.width / 8) ∧
    s.memory.wf = true

/-- R46 (informative; log entry 19): edition O's 32-bit register and edition N's with `P_EXT = true`, `P_EXT64 =
false`, `P_EDGE = false` have the same value for the same four fields, and the same presence condition. -/
def Obligations.EditionsAgree : Prop :=
  ∀ (p : Bool) (th bw : BitVec 4) (bs sl : BitVec 8),
    pmmirValue 32 (Config.ofEditionO p th bw bs sl) = editionOValue th bw bs sl ∧
    (Config.ofEditionO p th bw bs sl).present = p ∧ (Config.ofEditionO p th bw bs sl).width = 32

/-- R28: what a reset leaves of the register. PMMIR holds the configuration's fields with zero above them (log entry
6), for every implementation with the register and every environment. Of the agent's run R28 and R68 say nothing: that
`State.resetWith` begins it with an empty agenda and no outcomes is the model's choice (log entry 16, DESIGN CHOICE),
and the environment's reset move in the middle of a run leaves both as they are (log entry 23). (`State.reset` is the
case of log entries 1, 2 and 3.) -/
def Obligations.ResetLeavesTheConfigurationsValue : Prop :=
  ∀ (c : Config) (p : CorePower) (a : Bool), c.present = true →
    (State.resetWith c p a).pmmir = some (c.edge.toNat * 2 ^ 24 + c.thWidth.toNat * 2 ^ 20 + c.busWidth.toNat * 2 ^ 16
      + c.busSlots.toNat * 2 ^ 8 + c.slots.toNat) ∧
    (State.resetWith c p a).corePower = p ∧ (State.resetWith c p a).agenda = [] ∧
    (State.resetWith c p a).responses = []
end

