-- ==== Sys2Proof/Laws/State.lean ====
section
/-!
SUPPORT. The fields of a state after each update: one lemma per field and update, so that no later proof unfolds a
record update.
-/

namespace Sys2Proof.Machine

section respond

variable (r : Response) (s : State)

@[simp] theorem respond_config : (respond r s).config = s.config := rfl

@[simp] theorem respond_corePower : (respond r s).corePower = s.corePower := rfl

@[simp] theorem respond_accessAllowed : (respond r s).accessAllowed = s.accessAllowed := rfl

@[simp] theorem respond_agenda : (respond r s).agenda = s.agenda := rfl

@[simp] theorem respond_responses : (respond r s).responses = s.responses ++ [r] := rfl

@[simp] theorem respond_draws : (respond r s).draws = s.draws := rfl

end respond

section takeError

variable (s : State)

@[simp] theorem takeError_config : (takeError s).config = s.config := rfl

@[simp] theorem takeError_corePower : (takeError s).corePower = s.corePower := rfl

@[simp] theorem takeError_accessAllowed : (takeError s).accessAllowed = s.accessAllowed := rfl

@[simp] theorem takeError_agenda : (takeError s).agenda = s.agenda := rfl

@[simp] theorem takeError_responses : (takeError s).responses = s.responses ++ [.error] := rfl

@[simp] theorem takeError_draws : (takeError s).draws = s.draws := rfl

end takeError

section countDraw

variable (s : State)

@[simp] theorem countDraw_config : (countDraw s).config = s.config := rfl

@[simp] theorem countDraw_corePower : (countDraw s).corePower = s.corePower := rfl

@[simp] theorem countDraw_accessAllowed : (countDraw s).accessAllowed = s.accessAllowed := rfl

@[simp] theorem countDraw_agenda : (countDraw s).agenda = s.agenda := rfl

@[simp] theorem countDraw_responses : (countDraw s).responses = s.responses := rfl

@[simp] theorem countDraw_draws : (countDraw s).draws = s.draws + 1 := rfl

end countDraw

section respondDrawn

variable (a b : Response) (s : State)

@[simp] theorem respondDrawn_config : (respondDrawn a b s).config = s.config := rfl

@[simp] theorem respondDrawn_corePower : (respondDrawn a b s).corePower = s.corePower := rfl

@[simp] theorem respondDrawn_accessAllowed : (respondDrawn a b s).accessAllowed = s.accessAllowed := rfl

@[simp] theorem respondDrawn_agenda : (respondDrawn a b s).agenda = s.agenda := rfl

@[simp] theorem respondDrawn_responses : (respondDrawn a b s).responses = s.responses ++ [if Config.freeChoice s.draws then a else b] := rfl

@[simp] theorem respondDrawn_draws : (respondDrawn a b s).draws = s.draws + 1 := rfl

end respondDrawn

section withAgenda

variable (rest : List Event) (s : State)

@[simp] theorem withAgenda_config : (withAgenda rest s).config = s.config := rfl

@[simp] theorem withAgenda_corePower : (withAgenda rest s).corePower = s.corePower := rfl

@[simp] theorem withAgenda_accessAllowed : (withAgenda rest s).accessAllowed = s.accessAllowed := rfl

@[simp] theorem withAgenda_agenda : (withAgenda rest s).agenda = rest := rfl

@[simp] theorem withAgenda_responses : (withAgenda rest s).responses = s.responses := rfl

@[simp] theorem withAgenda_draws : (withAgenda rest s).draws = s.draws := rfl

end withAgenda

section withPower

variable (p : CorePower) (s : State)

@[simp] theorem withPower_config : (withPower p s).config = s.config := rfl

@[simp] theorem withPower_corePower : (withPower p s).corePower = p := rfl

@[simp] theorem withPower_accessAllowed : (withPower p s).accessAllowed = s.accessAllowed := rfl

@[simp] theorem withPower_agenda : (withPower p s).agenda = s.agenda := rfl

@[simp] theorem withPower_responses : (withPower p s).responses = s.responses := rfl

@[simp] theorem withPower_draws : (withPower p s).draws = s.draws := rfl

end withPower

section withAccess

variable (allowed : Bool) (s : State)

@[simp] theorem withAccess_config : (withAccess allowed s).config = s.config := rfl

@[simp] theorem withAccess_corePower : (withAccess allowed s).corePower = s.corePower := rfl

@[simp] theorem withAccess_accessAllowed : (withAccess allowed s).accessAllowed = allowed := rfl

@[simp] theorem withAccess_agenda : (withAccess allowed s).agenda = s.agenda := rfl

@[simp] theorem withAccess_responses : (withAccess allowed s).responses = s.responses := rfl

@[simp] theorem withAccess_draws : (withAccess allowed s).draws = s.draws := rfl

end withAccess

section resetWith

variable (c : Config) (power : CorePower) (allowed : Bool)

@[simp] theorem resetWith_config : (State.resetWith c power allowed).config = c := rfl

@[simp] theorem resetWith_corePower : (State.resetWith c power allowed).corePower = power := rfl

@[simp] theorem resetWith_accessAllowed : (State.resetWith c power allowed).accessAllowed = allowed := rfl

@[simp] theorem resetWith_agenda : (State.resetWith c power allowed).agenda = [] := rfl

@[simp] theorem resetWith_responses : (State.resetWith c power allowed).responses = [] := rfl

@[simp] theorem resetWith_draws : (State.resetWith c power allowed).draws = 0 := rfl

end resetWith

/-! What is read from the configuration alone. -/

theorem pmmir_congr {s s' : State} (h : s'.config = s.config) : s'.pmmir = s.pmmir := by
  unfold State.pmmir
  rw [h]

theorem memory_congr {s s' : State} (h : s'.config = s.config) : s'.memory = s.memory := by
  simp [State.memory, h]

end Sys2Proof.Machine
end

