-- ==== Sys2Proof/Laws/Access.lean ====
section
/-!
SUPPORT. What the shared operations can do, said once: the branches of the common outcome function (R50), the answers
to a write, the moves of the environment. Proofs about the four operations cite these.
-/

namespace Sys2Proof.Machine

variable {s s' : State} {admitted : Bool} {notPresent : Response} {normal : State → State}

/-! ### The branches of `accessOutcome`, each under its condition -/

theorem accessOutcome_configuration (hc : s.config.admissible = false) :
    accessOutcome admitted notPresent normal s = .refused .configuration := by
  simp [accessOutcome, hc]

theorem accessOutcome_accessibility (hc : s.config.admissible = true) (ha : s.accessAllowed = false) :
    accessOutcome admitted notPresent normal s = .refused .accessibilityNotInSource := by
  simp [accessOutcome, hc, ha]

theorem accessOutcome_size (hc : s.config.admissible = true) (ha : s.accessAllowed = true) :
    accessOutcome false notPresent normal s = .refused .size := by
  simp [accessOutcome, hc, ha]

theorem accessOutcome_normal (hc : s.config.admissible = true) (ha : s.accessAllowed = true)
    (hp : s.config.present = true) (hon : s.corePower = .on) :
    accessOutcome true notPresent normal s = .next (normal s) := by
  simp [accessOutcome, hc, ha, hp, hon]

theorem accessOutcome_error (hc : s.config.admissible = true) (ha : s.accessAllowed = true)
    (hp : s.config.present = true) (hon : s.corePower ≠ .on) :
    accessOutcome true notPresent normal s = .next (takeError s) := by
  simp [accessOutcome, hc, ha, hp, hon]

theorem accessOutcome_notPresent (hc : s.config.admissible = true) (ha : s.accessAllowed = true)
    (hp : s.config.present = false) (hon : s.corePower = .on) :
    accessOutcome true notPresent normal s = .next (respond notPresent s) := by
  simp [accessOutcome, hc, ha, hp, hon]

theorem accessOutcome_drawn (hc : s.config.admissible = true) (ha : s.accessAllowed = true)
    (hp : s.config.present = false) (hon : s.corePower ≠ .on) :
    accessOutcome true notPresent normal s = .next (respondDrawn .error notPresent s) := by
  simp [accessOutcome, hc, ha, hp, hon]

/-- Everything `accessOutcome` can do when it answers a next state. -/
theorem accessOutcome_next (h : accessOutcome admitted notPresent normal s = .next s') :
    s.config.admissible = true ∧ s.accessAllowed = true ∧ admitted = true ∧
      ((s.config.present = true ∧ s.corePower = .on ∧ s' = normal s) ∨
        (s.config.present = true ∧ s.corePower ≠ .on ∧ s' = takeError s) ∨
        (s.config.present = false ∧ s.corePower = .on ∧ s' = respond notPresent s) ∨
        (s.config.present = false ∧ s.corePower ≠ .on ∧ s' = respondDrawn .error notPresent s)) := by
  unfold accessOutcome at h
  split at h
  · cases h
  · split at h
    · cases h
    · split at h
      · cases h
      · refine ⟨by simp_all, by simp_all, by simp_all, ?_⟩
        split at h <;> split at h <;> cases h <;> simp_all

/-! ### The answers to a write -/

theorem writeResponse_ok (h : s.config.roWriteResponse = .ok) : writeResponse s = respond .ok s := by
  simp [writeResponse, h]

theorem writeResponse_error (h : s.config.roWriteResponse = .error) : writeResponse s = takeError s := by
  simp [writeResponse, h]

theorem writeResponse_draw (h : s.config.roWriteResponse = .draw) :
    writeResponse s = respondDrawn .ok .error s := by
  simp [writeResponse, h]

theorem writeResponse_cases (s : State) :
    (s.config.roWriteResponse = .ok ∧ writeResponse s = respond .ok s) ∨
      (s.config.roWriteResponse = .error ∧ writeResponse s = takeError s) ∨
      (s.config.roWriteResponse = .draw ∧ writeResponse s = respondDrawn .ok .error s) := by
  cases h : s.config.roWriteResponse <;> simp [writeResponse, h]

/-! ### The moves of the environment -/

@[simp] theorem envMove_config (m : EnvMove) (s : State) : (envMove m s).config = s.config := by
  cases m <;> rfl

@[simp] theorem envMove_agenda (m : EnvMove) (s : State) : (envMove m s).agenda = s.agenda := by
  cases m <;> rfl

@[simp] theorem envMove_responses (m : EnvMove) (s : State) : (envMove m s).responses = s.responses := by
  cases m <;> rfl

theorem refuseUnmatched_ne_next (u : Unmatched) (s s' : State) : refuseUnmatched u s ≠ .next s' := by
  unfold refuseUnmatched
  split
  · simp
  · cases u <;> simp

end Sys2Proof.Machine
end

