-- ==== Sys2Proof/Laws/Decode.lean ====
section
/-!
SUPPORT. The decoder's table, row by row, and where it finds no row.
-/

namespace Sys2Proof

/-- A transaction that matches a row stands at PMMIR's offset. -/
theorem decodeRow_place {t : Txn} {i : Instr} (h : decodeRow t = some i) :
    t.block = .pmu ∧ t.offset = pmmirOffset ∧ decodeTransfer t.transfer = some i := by
  unfold decodeRow at h
  split at h
  · exact ⟨‹_ ∧ _›.1, ‹_ ∧ _›.2, h⟩
  · cases h

/-- The transfer of a row is the transfer of its operation's encoding. -/
theorem decodeTransfer_eq {x : Transfer} {i : Instr} (h : decodeTransfer x = some i) :
    x = (encode i).transfer := by
  unfold decodeTransfer at h
  split at h <;> cases h <;> rfl

/-- A transaction meets PMMIR exactly if some byte lies in both. -/
theorem meetsPmmir_iff (c : Config) (t : Txn) :
    t.meetsPmmir c = true ↔
      ∃ b, t.offset ≤ b ∧ b < t.offset + t.size ∧ pmmirOffset ≤ b ∧ b < pmmirOffset + c.regBytes := by
  unfold Txn.meetsPmmir
  rw [decide_eq_true_iff]
  constructor
  · intro h
    exact ⟨max t.offset pmmirOffset, by omega, by omega, by omega, by omega⟩
  · rintro ⟨b, h1, h2, h3, h4⟩
    omega

theorem regBytes_eq (c : Config) : c.regBytes = c.width / 8 := by
  unfold Config.width Config.regBytes
  split <;> rfl

theorem decode_of_row {c : Config} {t : Txn} {i : Instr} (h : decodeRow t = some i) : decode c t = .ok i := by
  simp [decode, h]

theorem decode_of_noRow {c : Config} {t : Txn} (h : decodeRow t = none) :
    decode c t = .error (unmatchedReason c t) := by
  simp [decode, h]

end Sys2Proof
end

