-- ==== Sys2Proof/Laws/Memory.lean ====
section
/-!
SUPPORT. The byte view of the register is in canonical form, at reset and in every other state, and shows nothing
outside the register's bytes. No operation writes memory, so there is no other memory operation to keep the form.
-/

namespace Sys2Proof.Machine

variable {w : Nat}

theorem lanesFrom_wf (order : ByteOrder) (n : Nat) (v : BitVec w) (base : Nat) :
    ∀ count k, (lanesFrom order n v base k count).wf = true
  | 0, _ => rfl
  | 1, _ => rfl
  | count + 2, k => by
    have h := lanesFrom_wf order n v base (count + 1) (k + 1)
    simp only [lanesFrom, Memory.wf, Bool.and_eq_true, decide_eq_true_eq] at h ⊢
    exact ⟨by omega, h⟩

theorem pmmirMemory_wf (c : Config) : (pmmirMemory c).wf = true := by
  unfold pmmirMemory
  split
  · exact lanesFrom_wf _ _ _ _ _ _
  · rfl

theorem memory_wf (s : State) : s.memory.wf = true := pmmirMemory_wf s.config

theorem reset_memory_wf : State.reset.memory.wf = true := memory_wf _

/-- A lane below the first one listed is not there. -/
theorem readByte_lanesFrom_below (order : ByteOrder) (n : Nat) (v : BitVec w) (base : Nat) :
    ∀ count k addr, addr < base + k → Memory.readByte (lanesFrom order n v base k count) addr = none
  | 0, _, _, _ => rfl
  | count + 1, k, addr, h => by
    have : base + k ≠ addr := by omega
    simp only [lanesFrom, Memory.readByte, this, if_false]
    exact readByte_lanesFrom_below order n v base count (k + 1) addr (by omega)

/-- Lane `j` of the listed ones reads as its byte. -/
theorem readByte_lanesFrom (order : ByteOrder) (n : Nat) (v : BitVec w) (base : Nat) :
    ∀ count k j, k ≤ j → j < k + count →
      Memory.readByte (lanesFrom order n v base k count) (base + j) = some (laneByte order n v j)
  | 0, _, _, h1, h2 => by omega
  | count + 1, k, j, h1, h2 => by
    by_cases hj : k = j
    · subst hj
      simp [lanesFrom, Memory.readByte]
    · have : base + k ≠ base + j := by omega
      simp only [lanesFrom, Memory.readByte, this, if_false]
      exact readByte_lanesFrom order n v base count (k + 1) j (by omega) (by omega)

end Sys2Proof.Machine
end

