-- ==== Sys2Proof/Laws/PerInstr.lean ====
section
/-!
SUPPORT. Statements about every operation as syntax, one lemma per constructor.

Family `RowRoundTrip`: the transaction of an operation stands in the PMU block at PMMIR's offset and matches that
operation's row of the table (spec/30_encoding.md R45).
-/

namespace Sys2Proof.Laws.RowRoundTrip

def Statement (i : Instr) : Prop :=
  (encode i).block = .pmu ∧ (encode i).offset = pmmirOffset ∧ decodeRow (encode i) = some i

theorem rd32 : Statement .rd32 := ⟨rfl, rfl, rfl⟩

theorem rd64 : Statement .rd64 := ⟨rfl, rfl, rfl⟩

theorem wr32 (data : Word32) : Statement (.wr32 data) := ⟨rfl, rfl, rfl⟩

theorem wr64 (data : Word64) : Statement (.wr64 data) := ⟨rfl, rfl, rfl⟩

end Sys2Proof.Laws.RowRoundTrip
end

