-- ==== Sys2Proof/Laws/Step.lean ====
section
/-!
SUPPORT. The shapes of a step and of a run.
-/

namespace Sys2Proof.Machine

variable {s s' : State} {rest : List Event}

theorem step_idle (hc : s.config.admissible = true) (ha : s.agenda = []) : step s = .next s := by
  simp [step, hc, ha, idle]

theorem step_environment {m : EnvMove} (hc : s.config.admissible = true)
    (ha : s.agenda = .environment m :: rest) : step s = .next (envMove m (withAgenda rest s)) := by
  simp [step, hc, ha, happen]

theorem step_transaction {t : Txn} (hc : s.config.admissible = true)
    (ha : s.agenda = .transaction t :: rest) : step s = perform t (withAgenda rest s) := by
  simp [step, hc, ha, happen]

theorem step_configuration (hc : s.config.admissible = false) : step s = .refused .configuration := by
  simp [step, hc]

/-- A performed transaction that answers a next state ran an operation of the table. -/
theorem perform_next {t : Txn} (h : perform t s = .next s') : ∃ i, decodeRow t = some i ∧ exec i s = .next s' := by
  unfold perform at h
  cases hd : decodeRow t with
  | some i =>
    rw [decode_of_row hd] at h
    exact ⟨i, rfl, h⟩
  | none =>
    rw [decode_of_noRow hd] at h
    exact absurd h (refuseUnmatched_ne_next _ _ _)

/-- Everything a step can do when it answers a next state. -/
theorem step_next (h : step s = .next s') :
    s.config.admissible = true ∧
      ((s.agenda = [] ∧ s' = s) ∨
        (∃ m rest, s.agenda = .environment m :: rest ∧ s' = envMove m (withAgenda rest s)) ∨
        (∃ t rest i, s.agenda = .transaction t :: rest ∧ decodeRow t = some i ∧
          exec i (withAgenda rest s) = .next s')) := by
  cases hc : s.config.admissible with
  | false => rw [step_configuration hc] at h; cases h
  | true =>
    refine ⟨rfl, ?_⟩
    match ha : s.agenda with
    | [] =>
      rw [step_idle hc ha] at h
      cases h
      exact .inl ⟨rfl, rfl⟩
    | .environment m :: rest =>
      rw [step_environment hc ha] at h
      cases h
      exact .inr (.inl ⟨m, rest, rfl, rfl⟩)
    | .transaction t :: rest =>
      rw [step_transaction hc ha] at h
      obtain ⟨i, hi, hx⟩ := perform_next h
      exact .inr (.inr ⟨t, rest, i, rfl, hi, hx⟩)

theorem run_zero (s : State) : run 0 s = .next s := rfl

theorem run_succ (k : Nat) (s : State) :
    run (k + 1) s =
      match step s with
      | .next t => run k t
      | .fault r => .fault r
      | .refused r => .refused r := rfl

theorem run_succ_of_next {k : Nat} (h : step s = .next s') : run (k + 1) s = run k s' := by
  simp [run_succ, h]

/-- The first step of the host's run of any machine. -/
theorem core_run_of_next (M : Host.Core) {k : Nat} {s t : M.State} (h : M.step s = .next t) :
    M.run (k + 1) s = M.run k t := by
  rw [Host.Core.run, h]

theorem core_run_of_refused (M : Host.Core) {k : Nat} {s : M.State} {r : M.Refusal} (h : M.step s = .refused r) :
    M.run (k + 1) s = .refused r := by
  rw [Host.Core.run, h]

/-- A run is the host's own run of the machine behind its interface. -/
theorem run_eq_core : ∀ (k : Nat) (s : State), run k s = Host.Core.run Sys2Proof.core k s
  | 0, _ => rfl
  | k + 1, s => by
    cases h : step s with
    | next t => exact (run_succ_of_next h).trans ((run_eq_core k t).trans (core_run_of_next Sys2Proof.core h).symm)
    | fault r => exact nomatch r
    | refused r =>
      refine Eq.trans ?_ (core_run_of_refused Sys2Proof.core h).symm
      simp only [run_succ, h]
      rfl

/-- A run of `k + 1` steps that ends in a state passed through a first step. -/
theorem run_succ_next {k : Nat} (h : run (k + 1) s = .next s') : ∃ t, step s = .next t ∧ run k t = .next s' := by
  rw [run_succ] at h
  cases hs : step s with
  | next t => exact ⟨t, rfl, by simpa [hs] using h⟩
  | fault r => exact nomatch r
  | refused r => simp [hs] at h

/-- What holds of a state and is kept by every step holds after any run. -/
theorem run_induction {P : State → Prop} (keeps : ∀ s s', P s → step s = .next s' → P s') :
    ∀ (k : Nat) (s s' : State), P s → run k s = .next s' → P s'
  | 0, _, _, hp, h => by cases h; exact hp
  | k + 1, s, s', hp, h => by
    obtain ⟨t, hs, hr⟩ := run_succ_next h
    exact run_induction keeps k t s' (keeps s t hp hs) hr

end Sys2Proof.Machine
end

