-- ==== Sys2Proof/Laws/Word.lean ====
section
/-!
SUPPORT. A transaction word and its six parts, in both directions.
-/

namespace Sys2Proof

/-- A number made of six parts side by side. -/
theorem parts_toNat (d : BitVec 64) (z s b r : BitVec 8) (o : BitVec 64) :
    (d ++ z ++ s ++ b ++ r ++ o : TxnWord).toNat =
      ((((d.toNat * 2 ^ 8 + z.toNat) * 2 ^ 8 + s.toNat) * 2 ^ 8 + b.toNat) * 2 ^ 8 + r.toNat) * 2 ^ 64 + o.toNat := by
  simp only [BitVec.toNat_append]
  rw [← Nat.shiftLeft_add_eq_or_of_lt z.isLt, ← Nat.shiftLeft_add_eq_or_of_lt s.isLt,
    ← Nat.shiftLeft_add_eq_or_of_lt b.isLt, ← Nat.shiftLeft_add_eq_or_of_lt r.isLt,
    ← Nat.shiftLeft_add_eq_or_of_lt o.isLt]
  simp only [Nat.shiftLeft_eq]

/-- A word is its parts side by side. -/
theorem word_eq_parts (w : TxnWord) :
    w.extractLsb' 96 64 ++ w.extractLsb' 88 8 ++ w.extractLsb' 80 8 ++ w.extractLsb' 72 8 ++ w.extractLsb' 64 8
      ++ w.extractLsb' 0 64 = w := by
  apply BitVec.eq_of_toNat_eq
  have := w.isLt
  rw [parts_toNat]
  simp only [BitVec.extractLsb'_toNat, Nat.shiftRight_eq_div_pow]
  omega

/-- The parts of a word made of parts. -/
theorem parts_of_word {d : BitVec 64} {z s b r : BitVec 8} {o : BitVec 64} {w : TxnWord}
    (hw : w = d ++ z ++ s ++ b ++ r ++ o) :
    w.extractLsb' 96 64 = d ∧ w.extractLsb' 88 8 = z ∧ w.extractLsb' 80 8 = s ∧ w.extractLsb' 72 8 = b ∧
      w.extractLsb' 64 8 = r ∧ w.extractLsb' 0 64 = o := by
  have hn := congrArg BitVec.toNat hw
  rw [parts_toNat] at hn
  have := d.isLt
  have := z.isLt
  have := s.isLt
  have := b.isLt
  have := r.isLt
  have := o.isLt
  refine ⟨?_, ?_, ?_, ?_, ?_, ?_⟩ <;> apply BitVec.eq_of_toNat_eq <;>
    simp only [BitVec.extractLsb'_toNat, Nat.shiftRight_eq_div_pow, hn] <;> omega

/-- The block byte of a word's block is that byte. -/
theorem code_ofCode (b : BitVec 8) : (Block.ofCode b).code = b := by
  apply BitVec.eq_of_toNat_eq
  unfold Block.ofCode
  split
  · rename_i h
    simp [Block.code, h]
  · rename_i n h
    have := b.isLt
    simp only [Block.code, BitVec.toNat_ofNat]
    omega

/-- The size byte of a word's size is that byte. -/
theorem sizeCode (b : BitVec 8) : BitVec.ofNat 8 (b + 4).toNat - 4 = b := by
  rw [BitVec.ofNat_toNat, BitVec.setWidth_eq, BitVec.add_sub_cancel]

end Sys2Proof
end

