-- ==== Sys2Proof/Machine/Lines.lean ====
section
/-!
DEFINITION. The spec's notation for programs and test vectors (spec/30_encoding.md R49), one line an event or outcome,
as lists of characters. It gives no meaning to anything; it names what the other files mean.
-/

namespace Sys2Proof.Machine

/-- `digits` hexadecimal digits of `n`, most significant first. -/
def hexDigits : Nat → Nat → List Char
  | 0, _ => []
  | digits + 1, n =>
    ['0', '1', '2', '3', '4', '5', '6', '7', '8', '9', 'A', 'B', 'C', 'D', 'E', 'F'].getD (n / 16 ^ digits % 16) '0'
      :: hexDigits digits n

/-- The line of an operation. -/
def instrLine : Instr → List Char
  | .rd32 => "RD32 PMU+0xE40".toList
  | .rd64 => "RD64 PMU+0xE40".toList
  | .wr32 data => "WR32 PMU+0xE40, 0x".toList ++ hexDigits 8 data.toNat
  | .wr64 data => "WR64 PMU+0xE40, 0x".toList ++ hexDigits 16 data.toNat

/-- The line of an environment move of the power state. -/
def powerLine : CorePower → List Char
  | .on => "ENV CorePower := On".toList
  | .lowPower => "ENV CorePower := LowPower".toList
  | .off => "ENV CorePower := Off".toList

/-- What stands after the arrow (R9, R49). -/
def responseLine : Response → List Char
  | .ok32 v => "Ok(0x".toList ++ hexDigits 8 v.toNat ++ [')']
  | .ok64 v => "Ok(0x".toList ++ hexDigits 16 v.toNat ++ [')']
  | .ok => "Ok".toList
  | .error => "Error".toList

end Sys2Proof.Machine
end

