-- ==== Sys2Proof/Tests/Slice0.lean ====
section
/-!
SUPPORT. The model's own tests. Expected results come from spec/95_test_vectors.md (V<n>) and the examples of the rules
named. Then, for every obligation with hypotheses, a state that meets them, clause by clause (witness_…).
-/

namespace Sys2Proof.Tests

open Sys2Proof Sys2Proof.Machine

/-! ### Configurations and states to test on -/

/-- V1 in its 32-bit form. -/
def c32 : Config := Config.workedExample

/-- V1 in its 64-bit form. -/
def c64 : Config := { c32 with pExt64 := true }

/-- No register: FEAT_PMUv3_EXT is missing. -/
def cAbsent32 : Config := { c32 with pExt := false }

/-- No register, and the 64-bit form: FEAT_PMUv3p4 is missing. -/
def cAbsent64 : Config := { c64 with pV3p4 := false }

/-- V22: a reserved EDGE. -/
def cReserved : Config := { c32 with edge := 2 }

/-- A configuration whose fields are all zero (V2). -/
def cZero : Config := { c32 with pEdge := false, pTh := false, edge := 0, thWidth := 0, busWidth := 0, busSlots := 0, slots := 0 }

def stateOf (c : Config) (p : CorePower) (l : List Event) : State := withAgenda l (State.resetWith c p true)

def op (i : Instr) : Event := .transaction (encode i)

def power (p : CorePower) : Event := .environment (.power p)

/-- The outcomes on record after a step or run that answers a next state. -/
def responsesOf : Host.Outcome State Fault Refusal → Option (List Response)
  | .next s => some s.responses
  | .fault _ => none
  | .refused _ => none

/-- The reason of a refusal. -/
def refusalOf : Host.Outcome State Fault Refusal → Option Refusal
  | .next _ => none
  | .fault _ => none
  | .refused r => some r

/-! ### Well-formed configurations (R25): one ill-formed configuration for each check -/

theorem test_wf_accepts_V21 : ({ c32 with busWidth := 12, busSlots := 255, slots := 255 } : Config).wf = true := by decide
theorem test_wf_refuses_V22_reserved_edge : cReserved.edgeNotReserved = false ∧ cReserved.wf = false := by decide
theorem test_wf_refuses_V23_edge_against_feature :
    ({ c32 with edge := 0 } : Config).edgeAgrees = false ∧ ({ c32 with edge := 0 } : Config).wf = false := by decide
theorem test_wf_refuses_V25_reserved_thWidth :
    ({ c32 with thWidth := 13 } : Config).thWidthNotReserved = false ∧ ({ c32 with thWidth := 13 } : Config).wf = false := by
  decide
theorem test_wf_refuses_V28_thWidth_against_feature :
    ({ c32 with thWidth := 3, pTh := false } : Config).thWidthAgrees = false ∧
      ({ c32 with thWidth := 3, pTh := false } : Config).wf = false := by decide
theorem test_wf_refuses_V30_V31_V32_reserved_busWidth :
    ({ c32 with busWidth := 2 } : Config).wf = false ∧ ({ c32 with busWidth := 1 } : Config).wf = false ∧
      ({ c32 with busWidth := 13 } : Config).busWidthNotReserved = false := by decide
theorem test_wf_refuses_V34_busSlots_without_count :
    ({ c32 with busCountAvailable := false } : Config).busSlotsAgrees = false ∧
      ({ c32 with busCountAvailable := false } : Config).wf = false := by decide
theorem test_wf_accepts_V33_V35_V36 :
    ({ c32 with busWidth := 0 } : Config).wf = true ∧
      ({ c32 with busCountAvailable := false, busSlots := 0 } : Config).wf = true ∧
      ({ c32 with busSlots := 0, slots := 0 } : Config).wf = true := by decide

/-- R25: 2, 13 and 11 values of EDGE, THWIDTH and BUS_WIDTH are not reserved. -/
theorem test_wf_counts :
    ((List.range 16).filter fun n => ({ c32 with edge := BitVec.ofNat 4 n } : Config).edgeNotReserved).length = 2 ∧
    ((List.range 16).filter fun n => ({ c32 with thWidth := BitVec.ofNat 4 n } : Config).thWidthNotReserved).length = 13 ∧
    ((List.range 16).filter fun n => ({ c32 with busWidth := BitVec.ofNat 4 n } : Config).busWidthNotReserved).length = 11 := by
  decide

theorem test_admitted_by_width :
    Instr.rd32.admitted c32 = true ∧ Instr.rd32.admitted c64 = false ∧ (Instr.wr64 0).admitted c32 = false := by decide

/-! ### Decoding (R45, R55), on tuples and on words written out -/

theorem test_decode_rd32 : decode c32 { block := .pmu, offset := 3648, transfer := .read 4 } = .ok .rd32 := by rfl
theorem test_decode_rd64 : decode c32 { block := .pmu, offset := 3648, transfer := .read 8 } = .ok .rd64 := by rfl
theorem test_decode_wr32 :
    decode c32 { block := .pmu, offset := 3648, transfer := .write 4 0xFE3AFDF7#32 } = .ok (.wr32 0xFE3AFDF7) := by rfl
theorem test_decode_wr64 :
    decode c32 { block := .pmu, offset := 3648, transfer := .write 8 0xFFFFFFFFFFFFFFFF#64 }
      = .ok (.wr64 0xFFFFFFFFFFFFFFFF) := by rfl
theorem test_decode_V49_overlap_upper_half :
    decode c64 { block := .pmu, offset := 0xE44, transfer := .read 4 } = .error .overlap := by rfl
theorem test_decode_V49b_not_part_of_pmmir :
    decode c32 { block := .pmu, offset := 0xE44, transfer := .read 4 } = .error .outOfScope := by rfl
theorem test_decode_V50_size : decode c32 { block := .pmu, offset := 0xE40, transfer := .read 1 } = .error .size := by rfl
theorem test_decode_V51_overlap_from_below :
    decode c32 { block := .pmu, offset := 0xE3E, transfer := .read 4 } = .error .overlap := by rfl
theorem test_decode_V52_just_below :
    decode c32 { block := .pmu, offset := 0xE3C, transfer := .read 4 } = .error .outOfScope := by rfl
theorem test_decode_other_block :
    decode c32 { block := .other 0, offset := 0xE40, transfer := .read 4 } = .error .outOfScope := by rfl
theorem test_decode_no_bytes :
    decode c32 { block := .pmu, offset := 0xE41, transfer := .read 0 } = .error .outOfScope := by rfl

theorem test_word_rd32 : decodeTableWord 16 0xE40 = some .rd32 := by decide
theorem test_word_rd64 : decodeTableWord 96 0x04_00_00_0000000000000E40 = some .rd64 := by decide
theorem test_word_wr32 :
    decodeTableWord 160 0x80000001_00_00_00_01_0000000000000E40 = some (.wr32 0x80000001) := by decide
theorem test_word_wr64 :
    decodeTableWord 160 0x8000000000000001_00_04_00_01_0000000000000E40 = some (.wr64 0x8000000000000001) := by decide
theorem test_word_bits_past_nbits_are_zero : decodeTableWord 80 0x04_00_00_0000000000000E40 = some .rd32 := by decide
theorem test_word_refuses_direction_2 : Txn.ofWord 0x02_0000000000000E40 = .error .direction := by rfl
theorem test_word_refuses_reserved_byte : Txn.ofWord 0x01_00_00_00_0000000000000E40 = .error .reservedBits := by rfl
theorem test_word_refuses_data_past_the_size :
    Txn.ofWord 0x100000000_00_00_00_01_0000000000000E40 = .error .strayData := by rfl

/-! ### The value (R23) and what it says (R33) -/

theorem test_value_V1 : pmmirValue 32 c32 = 0x01C50208 ∧ pmmirValue 64 c32 = 0x0000000001C50208 := by decide
theorem test_value_V8_largest :
    pmmirValue 32 { c32 with busWidth := 12, busSlots := 255, slots := 255 } = 0x01CCFFFF := by decide
theorem test_split_V5 :
    slotsOf (0x01770410 : Word32) = 0x10 ∧ busSlotsOf (0x01770410 : Word32) = 4 ∧ busWidthOf (0x01770410 : Word32) = 7 ∧
      thWidthOf (0x01770410 : Word32) = 7 ∧ edgeOf (0x01770410 : Word32) = 1 := by decide
theorem test_meaning_V9_to_V19 :
    edgeMeaning 15 = .reserved ∧ thBits 13 = .reserved ∧ thMax 12 = some 4095 ∧ thRes0 11 = some (.bits 11 11) ∧
      thRes0 12 = some .empty ∧ busBytes 12 = .some 2048 ∧ busBytes 2 = .reserved ∧ busBytes 13 = .reserved := by decide
theorem test_editionO_V4 : editionOValue 0 3 1 4 = 0x00030104 := by decide
theorem test_bytes_little :
    pmmirMemory { c32 with pmuBase := 0x1000 } = [(0x1E40, 0x08), (0x1E41, 0x02), (0x1E42, 0xC5), (0x1E43, 0x01)] := by decide
theorem test_bytes_big :
    pmmirMemory { c32 with byteOrder := .big } = [(0xE40, 0x01), (0xE41, 0xC5), (0xE42, 0x02), (0xE43, 0x08)] := by decide

/-! ### The operations: at most two steps each -/

theorem test_rd32_V37 : responsesOf (step (stateOf c32 .on [op .rd32])) = some [.ok32 0x01C50208] := by decide
theorem test_rd32_V40_low_power : responsesOf (step (stateOf c32 .lowPower [op .rd32])) = some [.error] := by decide
theorem test_rd64_V38 : responsesOf (step (stateOf c64 .on [op .rd64])) = some [.ok64 0x0000000001C50208] := by decide
theorem test_rd64_V47_size : refusalOf (step (stateOf c32 .on [op .rd64])) = some .size := by decide
theorem test_wr32_V55_error :
    responsesOf (step (stateOf { c32 with roWriteResponse := .error } .on [op (.wr32 0xFFFFFFFF)])) = some [.error] := by
  decide
theorem test_wr32_V61_not_present :
    responsesOf (step (stateOf cAbsent32 .on [op (.wr32 0xFFFFFFFF)])) = some [.ok] := by decide
theorem test_wr64_V58_ok :
    responsesOf (step (stateOf { c64 with roWriteResponse := .ok } .on [op (.wr64 0xFFFFFFFFFFFFFFFF)])) = some [.ok] := by
  decide
theorem test_wr64_V59_low_power : responsesOf (step (stateOf c64 .lowPower [op (.wr64 0)])) = some [.error] := by decide

theorem test_refused_V46 :
    refusalOf (step (withAccess false (stateOf c32 .on [op .rd32]))) = some .accessibilityNotInSource := by decide
theorem test_refused_configuration : refusalOf (step (stateOf cReserved .on [op .rd32])) = some .configuration := by decide
theorem test_environment_power :
    step (stateOf c32 .on [power .off]) = .next (stateOf c32 .off []) := by rfl
theorem test_reset_then_table_word :
    responsesOf (step (State.reset.withFetchWord 64 0xE40)) = some [.ok32 0x01C50208] := by decide

/-! ### The lines of R49 -/

theorem test_line_wr32 : instrLine (.wr32 0xFE3AFDF7) = "WR32 PMU+0xE40, 0xFE3AFDF7".toList := by decide
theorem test_line_response : responseLine (.ok32 0x01C50208) = "Ok(0x01C50208)".toList := by decide

/-! ### Witnesses: states that meet the hypotheses of the obligations, clause by clause -/

theorem witness_TransactionHasOneWord :
    Txn.ofWord 0x12345678_00_00_00_01_0000000000000E40 = .ok (encode (.wr32 0x12345678)) := by rfl

theorem witness_StepRunsTheDecodedOperation :
    let s := stateOf c32 .on [op .rd32]
    s.config.admissible = true ∧ s.agenda = .transaction (encode .rd32) :: [] ∧
      decode s.config (encode .rd32) = .ok .rd32 := ⟨rfl, rfl, rfl⟩

theorem witness_PlacedWordIsTheNextOperation :
    State.reset.config.admissible = true ∧ decodeTableWord 64 0xE40 = some .rd32 := by decide

theorem witness_StepOfTheEnvironment :
    c32.admissible = true ∧
      (stateOf c32 .on [power .off]).agenda = .environment (.power .off) :: [] ∧
      (stateOf c32 .on [.environment (.access false)]).agenda = .environment (.access false) :: [] ∧
      (stateOf c32 .on [.environment .reset]).agenda = .environment .reset :: [] ∧
      (stateOf c32 .on []).agenda = [] := by decide

/-- The five kinds of transaction that are no operation, each at a boundary of its range. -/
def sizeTxn : Txn := { block := .pmu, offset := 0xE40, transfer := .read 1 }
def overlapTxn : Txn := { block := .pmu, offset := 0xE43, transfer := .read 4 }
def belowTxn : Txn := { block := .pmu, offset := 0xE3C, transfer := .read 4 }
def otherBlockTxn : Txn := { block := .other 0, offset := 0xE40, transfer := .read 4 }

theorem witness_UnmatchedTransactionIsRefused_transactions (t : Txn)
    (ht : t = sizeTxn ∨ t = overlapTxn ∨ t = belowTxn ∨ t = otherBlockTxn) :
    (stateOf c32 .on [.transaction t]).config.admissible = true ∧
      (stateOf c32 .on [.transaction t]).agenda = .transaction t :: [] ∧ ∀ i, t ≠ encode i := by
  refine ⟨rfl, rfl, fun i => ?_⟩
  rcases ht with rfl | rfl | rfl | rfl <;> cases i <;>
    simp [sizeTxn, overlapTxn, belowTxn, otherBlockTxn, encode, pmmirOffset]

theorem witness_UnmatchedTransactionIsRefused_clauses :
    (withAccess false (stateOf c32 .on [.transaction sizeTxn])).accessAllowed = false ∧
      (stateOf c32 .on [.transaction sizeTxn]).accessAllowed = true ∧
      (sizeTxn.block = .pmu ∧ sizeTxn.offset = 0xE40) ∧
      (overlapTxn.block = .pmu ∧ overlapTxn.offset ≠ 0xE40 ∧
        ∃ b, overlapTxn.offset ≤ b ∧ b < overlapTxn.offset + overlapTxn.size ∧ 0xE40 ≤ b ∧ b < 0xE40 + c32.width / 8) ∧
      (belowTxn.block = .pmu ∧ belowTxn.offset ≠ 0xE40 ∧
        ¬ ∃ b, belowTxn.offset ≤ b ∧ b < belowTxn.offset + belowTxn.size ∧ 0xE40 ≤ b ∧ b < 0xE40 + c32.width / 8) ∧
      otherBlockTxn.block ≠ .pmu := by
  refine ⟨rfl, rfl, ⟨rfl, rfl⟩, ⟨rfl, by decide, 0xE43, by decide⟩, ⟨rfl, by decide, ?_⟩, by decide⟩
  rintro ⟨b, _, h2, h3, _⟩
  have : b < 0xE40 := h2
  omega

/-- What the statements about one operation ask of a state, in a word. -/
def performable (i : Instr) (s : State) : Bool :=
  s.config.admissible && s.accessAllowed && i.admitted s.config

theorem witness_EveryAdmittedOperationCompletes :
    performable .rd32 (stateOf c32 .on []) = true ∧ performable .rd64 (stateOf c64 .on []) = true ∧
      performable (.wr32 0) (stateOf c32 .on []) = true ∧ performable (.wr64 0) (stateOf c64 .on []) = true := by decide

/-- Present and on, present and low, absent and on, absent and off, the other width; and all fields zero. -/
theorem witness_Read32_Write32 :
    (performable .rd32 (stateOf c32 .on []) = true ∧ c32.pExt64 = false ∧ c32.present = true) ∧
      performable .rd32 (stateOf c32 .lowPower []) = true ∧
      (performable .rd32 (stateOf cAbsent32 .on []) = true ∧ cAbsent32.pExt64 = false ∧ cAbsent32.present = false) ∧
      performable .rd32 (stateOf cAbsent32 .off []) = true ∧
      (c64.admissible = true ∧ c64.pExt64 = true) ∧
      (performable .rd32 (stateOf cZero .on []) = true ∧ cZero.pExt64 = false ∧ cZero.edge = 0 ∧ cZero.thWidth = 0 ∧
        cZero.busWidth = 0 ∧ cZero.busSlots = 0 ∧ cZero.slots = 0) ∧
      c32.roWriteResponse = .draw ∧ ({ c32 with roWriteResponse := .ok } : Config).admissible = true ∧
      ({ c32 with roWriteResponse := .error } : Config).admissible = true := by decide

/-- Two reads that complete, and a write between them. -/
theorem witness_Read32_Write32_successive :
    let s := stateOf { c32 with roWriteResponse := .ok } .on []
    let v : Word32 := 0x01C50208
    exec .rd32 s = .next (respond (.ok32 v) s) ∧
      exec .rd32 (respond (.ok32 v) s) = .next (respond (.ok32 v) (respond (.ok32 v) s)) ∧
      exec (.wr32 0xFFFFFFFF) s = .next (respond .ok s) ∧
      exec .rd32 (respond .ok s) = .next (respond (.ok32 v) (respond .ok s)) := ⟨rfl, rfl, rfl, rfl⟩

theorem witness_Read64_Write64 :
    (performable .rd64 (stateOf c64 .on []) = true ∧ c64.pExt64 = true ∧ c64.present = true) ∧
      performable .rd64 (stateOf c64 .lowPower []) = true ∧
      (performable .rd64 (stateOf cAbsent64 .on []) = true ∧ cAbsent64.pExt64 = true ∧ cAbsent64.present = false) ∧
      performable .rd64 (stateOf cAbsent64 .off []) = true ∧
      (c32.admissible = true ∧ c32.pExt64 = false) ∧
      c64.roWriteResponse = .draw ∧ ({ c64 with roWriteResponse := .ok } : Config).admissible = true ∧
      ({ c64 with roWriteResponse := .error } : Config).admissible = true := by decide

/-- A read that completes, and one after a write. -/
theorem witness_Write64_following_read :
    let s := stateOf { c64 with roWriteResponse := .ok } .on []
    let v : Word64 := 0x01C50208
    exec (.wr64 0xFFFFFFFF) s = .next (respond .ok s) ∧ exec .rd64 s = .next (respond (.ok64 v) s) ∧
      exec .rd64 (respond .ok s) = .next (respond (.ok64 v) (respond .ok s)) := ⟨rfl, rfl, rfl⟩

theorem witness_ErrorWhenTheDomainIsNotOn :
    (performable (.wr32 1) (stateOf c32 .off []) = true ∧ c32.present = true ∧ (stateOf c32 .off []).corePower = .off) ∧
      (performable .rd64 (stateOf c64 .lowPower []) = true ∧ c64.present = true ∧
        (stateOf c64 .lowPower []).corePower = .lowPower) ∧
      (performable .rd32 (stateOf c32 .on []) = true ∧ (stateOf c32 .on []).corePower = .on) := by decide

theorem witness_AbsentAndUnpoweredIsDrawn :
    cAbsent32.present = false ∧ performable .rd32 (stateOf cAbsent32 .off []) = true ∧
      (stateOf cAbsent32 .off []).corePower ≠ .on := by decide

theorem witness_AbsentRegisterIsRes0 :
    (cAbsent32.pExt = false ∧ cAbsent32.pExt64 = false) ∧ (cAbsent64.pV3p4 = false ∧ cAbsent64.pExt64 = true) ∧
      (stateOf cAbsent32 .on []).accessAllowed = true ∧ (stateOf cAbsent32 .on []).corePower = .on := by decide

theorem witness_InaccessibleIsRefused :
    let s := withAccess false (stateOf c32 .on [.transaction belowTxn])
    s.config.admissible = true ∧ s.accessAllowed = false ∧ s.agenda = .transaction belowTxn :: [] := by decide

theorem witness_IllFormedConfigurationIsRefused : cReserved.present = true ∧ cReserved.wf = false := by decide

theorem witness_OperationsChangeNothing :
    exec .rd32 State.reset = .next (respond (.ok32 0x01C50208) State.reset) := by rfl

/-- A power move, an accessibility move, and so a step after which each differs. -/
theorem witness_OnlyTheEnvironmentMovesItsState :
    step (stateOf c32 .on [power .off]) = .next (stateOf c32 .off []) ∧
      (stateOf c32 .off []).corePower ≠ (stateOf c32 .on [power .off]).corePower ∧
      step (stateOf c32 .on [.environment (.access false)]) = .next (withAccess false (stateOf c32 .on [])) ∧
      (withAccess false (stateOf c32 .on [])).accessAllowed
        ≠ (stateOf c32 .on [.environment (.access false)]).accessAllowed :=
  ⟨rfl, by decide, rfl, by decide⟩

/-- V63, in both widths. -/
theorem witness_ErrorIsNotSticky :
    let s := stateOf c32 .on [power .off, op .rd32, power .on, op .rd32]
    let t := stateOf c64 .on [power .lowPower, op (.wr64 0), power .on, op .rd64]
    (s.ready = true ∧ Instr.rd32.admitted s.config = true ∧
      Instr.rd32 = (if s.config.pExt64 then .rd64 else .rd32) ∧
      s.agenda = .environment (.power .off) :: .transaction (encode .rd32) :: .environment (.power .on)
        :: .transaction (encode .rd32) :: []) ∧
      (t.ready = true ∧ (Instr.wr64 0).admitted t.config = true ∧
        Instr.rd64 = (if t.config.pExt64 then .rd64 else .rd32) ∧
        t.agenda = .environment (.power .lowPower) :: .transaction (encode (.wr64 0)) :: .environment (.power .on)
          :: .transaction (encode .rd64) :: []) := by decide

/-- A run of two steps, for the statements about runs. -/
theorem witness_runs :
    let s := stateOf c32 .on [power .off, op .rd32]
    s.responses = [] ∧ s.config.present = true ∧
      run 2 s = .next (respond .error (stateOf c32 .off [])) := ⟨rfl, rfl, rfl⟩

/-- A run on which a read completes, so that there is an outcome to speak of. -/
theorem witness_CompletedReadsAgreeOverARun :
    let s := stateOf c32 .on [op .rd32]
    s.responses = [] ∧ run 1 s = .next (respond (.ok32 0x01C50208) (stateOf c32 .on [])) ∧
      Response.readData (.ok32 0x01C50208) = some 0x01C50208 := ⟨rfl, rfl, rfl⟩

theorem witness_ReadsNeverShowReservedValues :
    let c : Config := { c32 with busCountAvailable := false, busSlots := 0 }
    let s := stateOf c .on [op .rd32]
    s.responses = [] ∧ s.config.present = true ∧ s.config.busCountAvailable = false ∧
      run (0 + 1) s = .next (respond (.ok32 0x01C50008) (stateOf c .on [])) ∧
      Response.ok32 0x01C50008 ∈ (respond (.ok32 0x01C50008) (stateOf c .on [])).responses :=
  ⟨rfl, rfl, rfl, rfl, by decide⟩

theorem witness_StepKeepsOutcomesFaithful :
    let s := respond (.ok32 0x01C50208) (stateOf c32 .on [op .rd32])
    s.Faithful ∧ step s = .next (respond (.ok32 0x01C50208) (respond (.ok32 0x01C50208) (stateOf c32 .on []))) := by
  refine ⟨?_, rfl⟩
  intro r hr
  have : r = .ok32 0x01C50208 := List.mem_singleton.1 hr
  subst this
  exact ⟨rfl, rfl⟩

theorem witness_ResetIsFaithful : State.reset.AfterReset := ⟨by decide, rfl, rfl⟩

theorem witness_AdmittedAgendaRunsToItsEnd :
    let s := stateOf c32 .on [op .rd32, power .off, op (.wr32 7)]
    s.config.admissible = true ∧ s.accessAllowed = true ∧ ∀ e ∈ s.agenda, Event.harmless s.config e = true := by decide

/-- Two implementations that differ in their fields: not on; absent; and a write that completes. -/
theorem witness_FieldsShowOnlyInACompletedRead :
    let s := stateOf c32 .off []
    let t := stateOf cZero .off []
    s.config.admissible = true ∧ t.config.admissible = true ∧ t.config.pExt = s.config.pExt ∧
      t.config.pV3p4 = s.config.pV3p4 ∧ t.config.pExt64 = s.config.pExt64 ∧
      t.config.roWriteResponse = s.config.roWriteResponse ∧ t.corePower = s.corePower ∧
      t.accessAllowed = s.accessAllowed ∧ t.responses = s.responses ∧ t.draws = s.draws ∧ s.corePower ≠ .on ∧
      exec .rd32 s = .next (takeError s) ∧
      cAbsent32.present = false ∧
      exec .rd32 (stateOf cAbsent32 .on []) = .next (respond (.ok32 0) (stateOf cAbsent32 .on [])) ∧
      Instr.wr32 5 ≠ .rd32 ∧ Instr.wr32 5 ≠ .rd64 ∧
      exec (.wr32 5) (stateOf { c32 with roWriteResponse := .ok } .on []) =
        .next (respond .ok (stateOf { c32 with roWriteResponse := .ok } .on [])) :=
  ⟨rfl, rfl, rfl, rfl, rfl, rfl, rfl, rfl, rfl, rfl, by decide, rfl, rfl, rfl, by decide, by decide, rfl⟩

/-- A step that answers a next state, and one that is refused. -/
theorem witness_BaseAndByteOrderDoNotMatter :
    step (stateOf c32 .on [op .rd32]) = .next (respond (.ok32 0x01C50208) (stateOf c32 .on [])) ∧
      step (stateOf c32 .on [op .rd64]) = .refused .size := ⟨rfl, rfl⟩

/-- For the statements about well-formed configurations: with the features and without, the bus count known and not,
and a step (for the clauses that no step changes a field). -/
theorem witness_wellFormedConfigurations :
    c32.wf = true ∧ c32.busWidth ≠ 0 ∧ c32.busSlots ≠ 0 ∧ c32.stallSlotImpl = true ∧
      cZero.wf = true ∧ cZero.pTh = false ∧ cZero.busWidth = 0 ∧
      ({ cZero with busCountAvailable := false } : Config).wf = true ∧
      busBytes 3 = .some 4 := by decide

/-- The first and last bit of every field, each carrying its own field's bit: EDGE 1, THWIDTH 9, BUS_WIDTH 6, BUS_SLOTS
129, SLOTS 126, so that neighbouring boundary bits differ; and the reserved bits next to them. -/
theorem witness_LayoutOfTheRegister :
    let c : Config := { c64 with edge := 1, thWidth := 9, busWidth := 6, busSlots := 129, slots := 126 }
    [0, 7, 8, 15, 16, 19, 20, 23, 24, 27, 28, 31, 63].map (pmmirValue 64 c).getLsbD =
      [false, false, true, true, false, false, true, true, true, false, false, false, false] := by decide

/-- The least and the greatest values of THWIDTH that have a size, and the least reserved one. -/
theorem witness_ThWidthField :
    1 ≤ (1 : BitVec 4).toNat ∧ (1 : BitVec 4).toNat < 12 ∧ (12 : BitVec 4).toNat = 12 ∧ 13 ≤ (13 : BitVec 4).toNat := by
  decide

theorem witness_EdgeField : (2 : BitVec 4) ≠ 0 ∧ (2 : BitVec 4) ≠ 1 := by decide

theorem witness_BytesOfTheRegister_ResetLeavesTheConfigurationsValue :
    c32.present = true ∧ c64.present = true ∧ ({ c64 with byteOrder := .big } : Config).present = true := by decide

end Sys2Proof.Tests
end

/-!
SUPPORT. The layout of PMMIR bit by bit (spec/10_state.md R12, R13), in every width that holds the fields, and the
frame of the four operations on the configuration (R50 "In no branch is any state written").
-/

namespace Sys2Proof.Machine

/-! ### The bits of the value

Bits 27 to 0 mean the same in both layouts (R13), so each row of the table is one lemma for every width of at least 28
bits. -/

section layout
variable {w k : Nat}

/-- A bit of the row of fields, by the field whose range holds it: each `++` tests a distance from the end of the
field below, and the tests are the ends of the ranges of R12 and R13. -/
theorem fieldBits_getLsbD (c : Config) (k : Nat) :
    (fieldBits c).getLsbD k =
      if k < 8 then c.slots.getLsbD k
      else if k < 16 then c.busSlots.getLsbD (k - 8)
      else if k < 20 then c.busWidth.getLsbD (k - 16)
      else if k < 24 then c.thWidth.getLsbD (k - 20)
      else c.edge.getLsbD (k - 24) := by
  simp only [fieldBits, BitVec.getLsbD_append, Nat.sub_sub]
  grind

theorem pmmirValue_getLsbD (c : Config) (hk : k < w) : (pmmirValue w c).getLsbD k = (fieldBits c).getLsbD k := by
  simp [pmmirValue, hk]

theorem pmmirValue_getLsbD_slots (hw : 28 ≤ w) (c : Config) (hi : k < 8) :
    (pmmirValue w c).getLsbD k = c.slots.getLsbD k := by
  rw [pmmirValue_getLsbD c (by omega), fieldBits_getLsbD, if_pos hi]

theorem pmmirValue_getLsbD_busSlots (hw : 28 ≤ w) (c : Config) (lo : 8 ≤ k) (hi : k < 16) :
    (pmmirValue w c).getLsbD k = c.busSlots.getLsbD (k - 8) := by
  rw [pmmirValue_getLsbD c (by omega), fieldBits_getLsbD, if_neg (by omega), if_pos hi]

theorem pmmirValue_getLsbD_busWidth (hw : 28 ≤ w) (c : Config) (lo : 16 ≤ k) (hi : k < 20) :
    (pmmirValue w c).getLsbD k = c.busWidth.getLsbD (k - 16) := by
  rw [pmmirValue_getLsbD c (by omega), fieldBits_getLsbD, if_neg (by omega), if_neg (by omega), if_pos hi]

theorem pmmirValue_getLsbD_thWidth (hw : 28 ≤ w) (c : Config) (lo : 20 ≤ k) (hi : k < 24) :
    (pmmirValue w c).getLsbD k = c.thWidth.getLsbD (k - 20) := by
  rw [pmmirValue_getLsbD c (by omega), fieldBits_getLsbD, if_neg (by omega), if_neg (by omega), if_neg (by omega),
    if_pos hi]

theorem pmmirValue_getLsbD_edge (hw : 28 ≤ w) (c : Config) (lo : 24 ≤ k) (hi : k < 28) :
    (pmmirValue w c).getLsbD k = c.edge.getLsbD (k - 24) := by
  rw [pmmirValue_getLsbD c (by omega), fieldBits_getLsbD, if_neg (by omega), if_neg (by omega), if_neg (by omega),
    if_neg (by omega)]

/-- No field reaches bit 28, so the bits from there on read as zero (R14; PRESUMED, log entry 6). -/
theorem pmmirValue_getLsbD_reserved (w : Nat) (c : Config) (lo : 28 ≤ k) : (pmmirValue w c).getLsbD k = false := by
  simp [pmmirValue, BitVec.getLsbD_of_ge (fieldBits c) k lo]

end layout

/-! ### The operations leave the configuration -/

@[simp] theorem writeResponse_config (s : State) : (writeResponse s).config = s.config := by
  obtain ⟨-, h⟩ | ⟨-, h⟩ | ⟨-, h⟩ := writeResponse_cases s <;> simp [h]

/-- The common outcome function leaves the configuration, if its normal branch does. -/
theorem accessOutcome_config {admitted : Bool} {notPresent : Response} {normal : State → State} {s s' : State}
    (hn : (normal s).config = s.config) (h : accessOutcome admitted notPresent normal s = .next s') :
    s'.config = s.config := by
  obtain ⟨-, -, -, ⟨-, -, rfl⟩ | ⟨-, -, rfl⟩ | ⟨-, -, rfl⟩ | ⟨-, -, rfl⟩⟩ := accessOutcome_next h
  · exact hn
  · exact takeError_config s
  · exact respond_config notPresent s
  · exact respondDrawn_config .error notPresent s

theorem exec_config {i : Instr} {s s' : State} (h : exec i s = .next s') : s'.config = s.config := by
  cases i with
  | rd32 => exact accessOutcome_config (respond_config _ s) h
  | rd64 => exact accessOutcome_config (respond_config _ s) h
  | wr32 data => exact accessOutcome_config (writeResponse_config s) h
  | wr64 data => exact accessOutcome_config (writeResponse_config s) h

/-- Settles O31: the rows of the two layouts, by the field that holds the bit, and the operations leave the whole
configuration. -/
theorem layoutOfTheRegister : Obligations.LayoutOfTheRegister := by
  have h64 : 28 ≤ 64 := by decide
  have h32 : 28 ≤ 32 := by decide
  refine ⟨fun c c' k => ⟨?slots, ?busSlots, ?busWidth, ?thWidth, ?edge, ?reserved64, ?reserved32⟩, ?readOnly⟩
  case slots => exact fun hi => ⟨pmmirValue_getLsbD_slots h64 c hi, pmmirValue_getLsbD_slots h32 c hi⟩
  case busSlots =>
    exact fun lo hi => ⟨pmmirValue_getLsbD_busSlots h64 c lo hi, pmmirValue_getLsbD_busSlots h32 c lo hi⟩
  case busWidth =>
    exact fun lo hi => ⟨pmmirValue_getLsbD_busWidth h64 c lo hi, pmmirValue_getLsbD_busWidth h32 c lo hi⟩
  case thWidth =>
    exact fun lo hi => ⟨pmmirValue_getLsbD_thWidth h64 c lo hi, pmmirValue_getLsbD_thWidth h32 c lo hi⟩
  case edge => exact fun lo hi => ⟨pmmirValue_getLsbD_edge h64 c lo hi, pmmirValue_getLsbD_edge h32 c lo hi⟩
  case reserved64 =>
    exact fun lo _ => (pmmirValue_getLsbD_reserved 64 c lo).trans (pmmirValue_getLsbD_reserved 64 c' lo).symm
  case reserved32 =>
    exact fun lo _ => (pmmirValue_getLsbD_reserved 32 c lo).trans (pmmirValue_getLsbD_reserved 32 c' lo).symm
  case readOnly =>
    intro i s s' h
    rw [exec_config h]
    exact ⟨rfl, rfl, rfl, rfl, rfl⟩

end Sys2Proof.Machine

/-!
SUPPORT. The four operations as one: each is the common outcome function of R50 with its own results (R51 to R54), so
what a branch of R50 answers is said once for all of them. Then the Error of spec/60_exceptions.md R58.
-/

namespace Sys2Proof.Machine

/-- The last branch of R50, by operation: the register is present and powered, and the access is performed. -/
def performedResult : Instr → State → State
  | .rd32, s => respond (.ok32 (pmmirValue 32 s.config)) s
  | .rd64, s => respond (.ok64 (pmmirValue 64 s.config)) s
  | .wr32 _, s => writeResponse s
  | .wr64 _, s => writeResponse s

theorem exec_eq_accessOutcome (i : Instr) (s : State) :
    exec i s = accessOutcome (i.admitted s.config) (absentResult i) (performedResult i) s := by
  cases i <;> rfl

section present
variable {i : Instr} {s : State}

/-- R58: an access of the register in a domain that is not on. -/
theorem exec_error (hc : s.config.admissible = true) (ha : s.accessAllowed = true)
    (hi : i.admitted s.config = true) (hp : s.config.present = true) (hon : s.corePower ≠ .on) :
    exec i s = .next (takeError s) := by
  rw [exec_eq_accessOutcome, hi]
  exact accessOutcome_error hc ha hp hon

/-- An access of the register in a domain that is on. -/
theorem exec_performed (hc : s.config.admissible = true) (ha : s.accessAllowed = true)
    (hi : i.admitted s.config = true) (hp : s.config.present = true) (hon : s.corePower = .on) :
    exec i s = .next (performedResult i s) := by
  rw [exec_eq_accessOutcome, hi]
  exact accessOutcome_normal hc ha hp hon

end present

/-- A read that is performed records a value, not the `Error`. -/
theorem performedResult_read_responses {i : Instr} (hread : i = .rd32 ∨ i = .rd64) (s : State) :
    ∃ r, (performedResult i s).responses = s.responses ++ [r] ∧ r ≠ .error := by
  obtain rfl | rfl := hread
  · exact ⟨.ok32 (pmmirValue 32 s.config), respond_responses .., Response.noConfusion⟩
  · exact ⟨.ok64 (pmmirValue 64 s.config), respond_responses .., Response.noConfusion⟩

/-- Settles O15: the two branches of R50 for a register that is present, by the state of its power domain. -/
theorem errorWhenTheDomainIsNotOn : Obligations.ErrorWhenTheDomainIsNotOn := by
  intro i s hc ha hi hp
  refine ⟨fun hoff => ?notOn, fun hon hread => ?on⟩
  case notOn =>
    have hon : s.corePower ≠ .on := by obtain h | h := hoff <;> simp [h]
    exact ⟨takeError s, exec_error hc ha hi hp hon, takeError_responses s⟩
  case on =>
    obtain ⟨r, hr, hne⟩ := performedResult_read_responses hread s
    exact ⟨performedResult i s, r, exec_performed hc ha hi hp hon, hr, hne⟩

end Sys2Proof.Machine

/-!
SUPPORT. The word form of a transaction, in both directions (log entry 15), and the decoder as the inverse of the
encoder (spec/30_encoding.md R44, R45).
-/

namespace Sys2Proof

/-! ### Transactions and their words -/

/-- When a word denotes a transaction, and which: the reserved byte is zero, and the direction byte is 0 with no data
or 1 with data that fits the size. -/
theorem ofWord_eq_ok_iff {w : TxnWord} {t : Txn} :
    Txn.ofWord w = .ok t ↔
      w.extractLsb' 88 8 = 0 ∧ Block.ofCode (w.extractLsb' 72 8) = t.block ∧ (w.extractLsb' 0 64).toNat = t.offset ∧
        ((w.extractLsb' 64 8 = 0 ∧ w.extractLsb' 96 64 = 0 ∧
            Transfer.read (w.extractLsb' 80 8 + 4).toNat = t.transfer) ∨
          (w.extractLsb' 64 8 = 1 ∧ (w.extractLsb' 96 64).toNat < 2 ^ ((w.extractLsb' 80 8 + 4).toNat * 8) ∧
            Transfer.write (w.extractLsb' 80 8 + 4).toNat ((w.extractLsb' 96 64).setWidth _) = t.transfer)) := by
  obtain ⟨block, offset, transfer⟩ := t
  unfold Txn.ofWord
  generalize w.extractLsb' 88 8 = z, w.extractLsb' 64 8 = dir, w.extractLsb' 96 64 = data
  by_cases hz : z = 0#8
  case neg => simp [hz]
  by_cases hread : dir = 0#8
  case pos => by_cases hdata : data = 0#64 <;> simp [hz, hread, hdata]
  by_cases hwrite : dir = 1#8
  case neg => simp [hz, hread, hwrite]
  by_cases hdata : data.toNat < 2 ^ ((w.extractLsb' 80 8 + 4).toNat * 8) <;>
    simp only [hz, hwrite, hdata] <;> simp

/-- Data that fits in `n` bits survives the way through them. -/
theorem setWidth_setWidth_of_lt {m n : Nat} {v : BitVec m} (h : v.toNat < 2 ^ n) : (v.setWidth n).setWidth m = v :=
  BitVec.eq_of_toNat_eq <| by
    rw [BitVec.toNat_setWidth, BitVec.toNat_setWidth, Nat.mod_eq_of_lt h, Nat.mod_eq_of_lt v.isLt]

/-- Settles O2: an accepted word has the reserved byte, the direction byte and the data that `Txn.toWord` writes; its
block and size bytes come back by `code_ofCode` and `sizeCode`. -/
theorem transactionHasOneWord : Obligations.TransactionHasOneWord := by
  rintro w ⟨block, offset, transfer⟩ h
  obtain ⟨hz, rfl, rfl, ⟨hdir, hdata, rfl⟩ | ⟨hdir, hdata, rfl⟩⟩ := ofWord_eq_ok_iff.1 h
  case inl =>
    conv_rhs => rw [← word_eq_parts w, hz, hdir, hdata]
    simp only [Txn.toWord, Txn.size, Transfer.dirAndData, code_ofCode, sizeCode]
    rw [BitVec.ofNat_toNat, BitVec.setWidth_eq]
  case inr =>
    conv_rhs => rw [← word_eq_parts w, hz, hdir]
    simp only [Txn.toWord, Txn.size, Transfer.dirAndData, code_ofCode, sizeCode, setWidth_setWidth_of_lt hdata]
    rw [BitVec.ofNat_toNat, BitVec.setWidth_eq]

/-- A word holds a transaction with an offset of 64 bits, a block whose number fits a byte, and a size from 4 to 8
bytes. -/
theorem ofWord_toWord {t : Txn} (ho : t.offset < 2 ^ 64) (hb : Block.ofCode t.block.code = t.block) (h4 : 4 ≤ t.size)
    (h8 : t.size ≤ 8) : Txn.ofWord t.toWord = .ok t := by
  obtain ⟨hdata, hz, hsize, hblock, hdir, hoffset⟩ := parts_of_word (w := t.toWord) rfl
  have hsize' : (BitVec.ofNat 8 t.size - 4 + 4).toNat = t.size := by
    rw [BitVec.sub_add_cancel, BitVec.toNat_ofNat]
    omega
  have hoffset' : (BitVec.ofNat 64 t.offset).toNat = t.offset := by
    rw [BitVec.toNat_ofNat, Nat.mod_eq_of_lt ho]
  rw [ofWord_eq_ok_iff, hdata, hz, hsize, hblock, hdir, hoffset, hsize', hoffset']
  refine ⟨rfl, hb, rfl, ?_⟩
  obtain ⟨block, offset, transfer⟩ := t
  cases transfer with
  | read size => exact .inl ⟨rfl, rfl, rfl⟩
  | write size data =>
    have hfit : data.toNat < 2 ^ 64 :=
      lt_of_lt_of_le data.isLt (Nat.pow_le_pow_right (by decide) (show size * 8 ≤ 64 from Nat.mul_le_mul_right 8 h8))
    have hnat : (data.setWidth 64).toNat = data.toNat := by rw [BitVec.toNat_setWidth, Nat.mod_eq_of_lt hfit]
    refine .inr ⟨rfl, ?_, ?_⟩
    · exact hnat.trans_lt data.isLt
    · exact congrArg (Transfer.write size) (setWidth_setWidth_of_lt hfit)

theorem rowRoundTrip : ∀ i : Instr, Laws.RowRoundTrip.Statement i
  | .rd32 => Laws.RowRoundTrip.rd32
  | .rd64 => Laws.RowRoundTrip.rd64
  | .wr32 data => Laws.RowRoundTrip.wr32 data
  | .wr64 data => Laws.RowRoundTrip.wr64 data

theorem decodeRow_encode (i : Instr) : decodeRow (encode i) = some i := by
  obtain ⟨-, -, h⟩ := rowRoundTrip i
  exact h

theorem ofWord_encodeWord (i : Instr) : Txn.ofWord (encodeWord i) = .ok (encode i) := by
  have hpmu : Block.ofCode (Block.code .pmu) = .pmu := by decide
  have hoffset : pmmirOffset < 2 ^ 64 := by decide
  cases i <;> exact ofWord_toWord hoffset hpmu (by simp [encode, Txn.size]) (by simp [encode, Txn.size])

/-- Settles O1: the word gives back the transaction, and the transaction its row. -/
theorem decodeOfEncodedWord : Obligations.DecodeOfEncodedWord := by
  intro i
  rw [decodeWord, ofWord_encodeWord]
  exact decodeRow_encode i

/-- Settles O4, by running the decoder on the five words. -/
theorem writtenOutWordsDecode : Obligations.WrittenOutWordsDecode := by
  refine ⟨?_, ?_, ?_, ?_, ?_⟩ <;> decide

/-! ### The table -/

/-- The decoder finds an operation for its own transaction and for no other. -/
theorem decodeRow_eq_some_iff {t : Txn} {i : Instr} : decodeRow t = some i ↔ t = encode i := by
  constructor
  · intro h
    obtain ⟨hb, ho, ht⟩ := decodeRow_place h
    have htransfer := decodeTransfer_eq ht
    obtain ⟨block, offset, transfer⟩ := t
    cases i <;> simp_all [encode]
  · rintro rfl
    exact decodeRow_encode i

theorem decode_eq_ok_iff {c : Config} {t : Txn} {i : Instr} : decode c t = .ok i ↔ t = encode i := by
  rw [← decodeRow_eq_some_iff]
  cases h : decodeRow t with
  | none => simp [decode_of_noRow h]
  | some j => simp [decode_of_row h]

/-- Settles O3: each row is `decode_eq_ok_iff` for its operation. -/
theorem decodingIsTheTable : Obligations.DecodingIsTheTable := by
  intro c t
  refine ⟨decode_eq_ok_iff, decode_eq_ok_iff, fun d => decode_eq_ok_iff, fun d => decode_eq_ok_iff, ?total,
    fun d d' => ?admitted⟩
  case total =>
    intro hno
    cases h : decode c t with
    | ok i => exact absurd h (hno i)
    | error u => exact ⟨u, rfl⟩
  case admitted => simp [Instr.admitted]

theorem encode_address (c : Config) (i : Instr) : (encode i).address c = some (pmmirAddress c) := by
  cases i <;> rfl

/-- Settles O5: the offset from the base of the block is PMMIR's. -/
theorem operationsAddressPmuBasePlusOffset : Obligations.OperationsAddressPmuBasePlusOffset := by
  intro c d d' i
  refine ⟨?_, ?_, ?_, ?_, encode_address c i⟩ <;> simp [encode, memRead, memWrite, pmmirOffset]

end Sys2Proof

/-!
SUPPORT. The value of PMMIR as a number (spec/10_state.md R23), its slices, and what a reset leaves of it (R28).
-/

namespace Sys2Proof.Machine

/-! ### The fields as one number -/

theorem append_toNat {m n : Nat} (x : BitVec m) (y : BitVec n) : (x ++ y).toNat = x.toNat * 2 ^ n + y.toNat := by
  rw [BitVec.toNat_append, ← Nat.shiftLeft_add_eq_or_of_lt y.isLt, Nat.shiftLeft_eq]

/-- The weighted sum of R23. -/
theorem fieldBits_toNat (c : Config) :
    (fieldBits c).toNat = c.edge.toNat * 2 ^ 24 + c.thWidth.toNat * 2 ^ 20 + c.busWidth.toNat * 2 ^ 16
      + c.busSlots.toNat * 2 ^ 8 + c.slots.toNat := by
  simp only [fieldBits, append_toNat]
  omega

section value
variable {w : Nat}

/-- A value wide enough for the fields is their number. -/
theorem pmmirValue_toNat (hw : 28 ≤ w) (c : Config) : (pmmirValue w c).toNat = (fieldBits c).toNat :=
  BitVec.toNat_setWidth_of_le hw

theorem pmmirValue_setWidth {v : Nat} (hv : 28 ≤ v) (c : Config) : (pmmirValue v c).setWidth w = pmmirValue w c :=
  BitVec.setWidth_setWidth (by omega)

/-! ### The slices of the value -/

theorem pmmirValue_slice {start len : Nat} (h : start + len ≤ w) (c : Config) :
    (pmmirValue w c).extractLsb' start len = (fieldBits c).extractLsb' start len :=
  BitVec.extractLsb'_setWidth_of_le h

theorem slotsOf_pmmirValue (hw : 28 ≤ w) (c : Config) : slotsOf (pmmirValue w c) = c.slots := by
  rw [slotsOf, pmmirValue_slice (by omega), fieldBits, BitVec.extractLsb'_append_eq_right]

theorem busSlotsOf_pmmirValue (hw : 28 ≤ w) (c : Config) : busSlotsOf (pmmirValue w c) = c.busSlots := by
  rw [busSlotsOf, pmmirValue_slice (by omega), fieldBits, BitVec.extractLsb'_append_eq_of_le (by decide),
    BitVec.extractLsb'_append_eq_right]

theorem busWidthOf_pmmirValue (hw : 28 ≤ w) (c : Config) : busWidthOf (pmmirValue w c) = c.busWidth := by
  rw [busWidthOf, pmmirValue_slice (by omega), fieldBits, BitVec.extractLsb'_append_eq_of_le (by decide),
    BitVec.extractLsb'_append_eq_of_le (by decide), BitVec.extractLsb'_append_eq_right]

theorem thWidthOf_pmmirValue (hw : 28 ≤ w) (c : Config) : thWidthOf (pmmirValue w c) = c.thWidth := by
  rw [thWidthOf, pmmirValue_slice (by omega), fieldBits, BitVec.extractLsb'_append_eq_of_le (by decide),
    BitVec.extractLsb'_append_eq_of_le (by decide), BitVec.extractLsb'_append_eq_of_le (by decide),
    BitVec.extractLsb'_append_eq_right]

theorem edgeOf_pmmirValue (hw : 28 ≤ w) (c : Config) : edgeOf (pmmirValue w c) = c.edge := by
  rw [edgeOf, pmmirValue_slice (by omega), fieldBits, BitVec.extractLsb'_append_eq_of_le (by decide),
    BitVec.extractLsb'_append_eq_of_le (by decide), BitVec.extractLsb'_append_eq_of_le (by decide)]
  exact BitVec.extractLsb'_append_eq_left

/-- Above the fields there is nothing to read (R14; PRESUMED, log entry 6). -/
theorem pmmirValue_reservedSlice (w len : Nat) (c : Config) : (pmmirValue w c).extractLsb' 28 len = 0 := by
  ext k hk
  simp [pmmirValue_getLsbD_reserved w c (Nat.le_add_right 28 k)]

end value

/-- Settles O30: the sum of R23, and its slices. -/
theorem valueIsAssembledFromTheFields : Obligations.ValueIsAssembledFromTheFields := by
  intro c
  have h32 : 28 ≤ 32 := by decide
  have h64 : 28 ≤ 64 := by decide
  exact ⟨(pmmirValue_toNat h32 c).trans (fieldBits_toNat c),
    (pmmirValue_toNat h64 c).trans (pmmirValue_toNat h32 c).symm,
    slotsOf_pmmirValue h32 c, busSlotsOf_pmmirValue h32 c, busWidthOf_pmmirValue h32 c, thWidthOf_pmmirValue h32 c,
    edgeOf_pmmirValue h32 c, slotsOf_pmmirValue h64 c, busSlotsOf_pmmirValue h64 c, busWidthOf_pmmirValue h64 c,
    thWidthOf_pmmirValue h64 c, edgeOf_pmmirValue h64 c⟩

/-- Settles O32, for the two widths. -/
theorem reservedBitsReadAsZero : Obligations.ReservedBitsReadAsZero := fun c =>
  ⟨pmmirValue_reservedSlice 64 36 c, pmmirValue_reservedSlice 32 4 c⟩

/-- Settles O40: the two values as numbers differ in the term of EDGE only, and EDGE is zero. -/
theorem editionsAgree : Obligations.EditionsAgree := by
  intro p th bw bs sl
  refine ⟨BitVec.eq_of_toNat_eq ?_, rfl, rfl⟩
  rw [pmmirValue_toNat (by decide), fieldBits_toNat]
  simp only [editionOValue, append_toNat, Config.ofEditionO, BitVec.ofNat_eq_ofNat, BitVec.toNat_ofNat]
  omega

/-! ### The register of a state -/

theorem width_ge (c : Config) : 28 ≤ c.width := by
  unfold Config.width
  split <;> decide

theorem pmmir_present {s : State} (hp : s.config.present = true) : s.pmmir = some (fieldBits s.config).toNat := by
  rw [State.pmmir, if_pos hp, pmmirValue_toNat (width_ge s.config)]

theorem pmmir_absent {s : State} (hp : s.config.present = false) : s.pmmir = none := by
  simp [State.pmmir, hp]

theorem memory_absent {s : State} (hp : s.config.present = false) : s.memory = [] := by
  simp [State.memory, pmmirMemory, hp]

/-- Settles O41. -/
theorem resetLeavesTheConfigurationsValue : Obligations.ResetLeavesTheConfigurationsValue := by
  intro c p a hp
  refine ⟨?_, rfl, rfl, rfl⟩
  rw [pmmir_present (s := State.resetWith c p a) hp, resetWith_config, fieldBits_toNat]

end Sys2Proof.Machine

/-!
SUPPORT. The remaining branches of the common outcome function (spec/40_register_access.md R50) for the four operations
as one, and what an operation can do when it answers a next state: it records one outcome, which is possible for the
configuration and answers the operation, and changes nothing else.
-/

namespace Sys2Proof.Machine

/-! ### The branches of R50, by operation -/

section branches
variable {i : Instr} {s : State}

theorem exec_configuration (hc : s.config.admissible = false) : exec i s = .refused .configuration := by
  rw [exec_eq_accessOutcome]
  exact accessOutcome_configuration hc

theorem exec_accessibility (hc : s.config.admissible = true) (ha : s.accessAllowed = false) :
    exec i s = .refused .accessibilityNotInSource := by
  rw [exec_eq_accessOutcome]
  exact accessOutcome_accessibility hc ha

theorem exec_size (hc : s.config.admissible = true) (ha : s.accessAllowed = true)
    (hi : i.admitted s.config = false) : exec i s = .refused .size := by
  rw [exec_eq_accessOutcome, hi]
  exact accessOutcome_size hc ha

/-- Without the register the field parameters are not consulted (R26). -/
theorem admissible_of_absent {c : Config} (hp : c.present = false) : c.admissible = true := by
  simp [Config.admissible, hp]

theorem exec_notPresent (hp : s.config.present = false) (ha : s.accessAllowed = true)
    (hi : i.admitted s.config = true) (hon : s.corePower = .on) : exec i s = .next (respond (absentResult i) s) := by
  rw [exec_eq_accessOutcome, hi]
  exact accessOutcome_notPresent (admissible_of_absent hp) ha hp hon

theorem exec_drawn (hp : s.config.present = false) (ha : s.accessAllowed = true)
    (hi : i.admitted s.config = true) (hon : s.corePower ≠ .on) :
    exec i s = .next (respondDrawn .error (absentResult i) s) := by
  rw [exec_eq_accessOutcome, hi]
  exact accessOutcome_drawn (admissible_of_absent hp) ha hp hon

theorem exec_admitted (hc : s.config.admissible = true) (ha : s.accessAllowed = true)
    (hi : i.admitted s.config = true) : ∃ s', exec i s = .next s' := by
  cases hp : s.config.present <;> by_cases hon : s.corePower = .on
  · exact ⟨_, exec_notPresent hp ha hi hon⟩
  · exact ⟨_, exec_drawn hp ha hi hon⟩
  · exact ⟨_, exec_performed hc ha hi hp hon⟩
  · exact ⟨_, exec_error hc ha hi hp hon⟩

end branches

/-! ### One outcome is recorded, and nothing else changes -/

/-- The state `s` with the outcome `r` recorded, and a free value counted where one was used. -/
inductive Records (r : Response) (s : State) : State → Prop where
  | given : Records r s (respond r s)
  | drawn : Records r s (countDraw (respond r s))

namespace Records
variable {r : Response} {s s' : State}

theorem config (h : Records r s s') : s'.config = s.config := by cases h <;> rfl

theorem corePower (h : Records r s s') : s'.corePower = s.corePower := by cases h <;> rfl

theorem accessAllowed (h : Records r s s') : s'.accessAllowed = s.accessAllowed := by cases h <;> rfl

theorem agenda (h : Records r s s') : s'.agenda = s.agenda := by cases h <;> rfl

theorem responses (h : Records r s s') : s'.responses = s.responses ++ [r] := by cases h <;> rfl

theorem draws (h : Records r s s') : s'.draws = s.draws ∨ s'.draws = s.draws + 1 := by
  cases h
  · exact .inl rfl
  · exact .inr rfl

end Records

section records
variable {P : Response → Prop} {s : State}

/-- A drawn outcome has what both alternatives have. -/
theorem respondDrawn_records {a b : Response} (ha : P a) (hb : P b) :
    ∃ r, P r ∧ Records r s (respondDrawn a b s) := by
  refine ⟨if Config.freeChoice s.draws then a else b, ?_, .drawn⟩
  split
  · exact ha
  · exact hb

/-- The answers to a write: `Error`, or `Ok` where `RO_WRITE_RESPONSE` lets it complete. -/
theorem writeResponse_records (he : P .error) (hok : s.config.roWriteResponse ≠ .error → P .ok) :
    ∃ r, P r ∧ Records r s (writeResponse s) := by
  obtain ⟨hw, h⟩ | ⟨-, h⟩ | ⟨hw, h⟩ := writeResponse_cases s <;> rw [h]
  · exact ⟨.ok, hok (by simp [hw]), .given⟩
  · exact ⟨.error, he, .given⟩
  · exact respondDrawn_records (hok (by simp [hw])) he

end records

/-- The two things known of the outcome of an operation. -/
def Response.fits (i : Instr) (c : Config) (r : Response) : Prop := r.possible c ∧ r.answers i

theorem error_fits (i : Instr) (c : Config) : Response.error.fits i c := by
  cases i <;> exact ⟨trivial, .inl rfl⟩

theorem readValue_present {c : Config} (w : Nat) (hp : c.present = true) : readValue w c = pmmirValue w c := if_pos hp

theorem readValue_absent {c : Config} (w : Nat) (hp : c.present = false) : readValue w c = 0 := by
  simp [readValue, hp]

theorem absentResult_fits {i : Instr} {c : Config} (hi : i.admitted c = true) (hp : c.present = false) :
    (absentResult i).fits i c := by
  cases i with
  | rd32 => exact ⟨⟨by simpa [Instr.admitted] using hi, (readValue_absent 32 hp).symm⟩, .inr ⟨_, rfl⟩⟩
  | rd64 => exact ⟨⟨hi, (readValue_absent 64 hp).symm⟩, .inr ⟨_, rfl⟩⟩
  | wr32 data => exact ⟨fun hp' => absurd (hp'.symm.trans hp) (by decide), .inr rfl⟩
  | wr64 data => exact ⟨fun hp' => absurd (hp'.symm.trans hp) (by decide), .inr rfl⟩

theorem performedResult_records {i : Instr} {s : State} (hi : i.admitted s.config = true)
    (hp : s.config.present = true) : ∃ r, r.fits i s.config ∧ Records r s (performedResult i s) := by
  cases i with
  | rd32 =>
    exact ⟨.ok32 _, ⟨⟨by simpa [Instr.admitted] using hi, (readValue_present 32 hp).symm⟩, .inr ⟨_, rfl⟩⟩, .given⟩
  | rd64 => exact ⟨.ok64 _, ⟨⟨hi, (readValue_present 64 hp).symm⟩, .inr ⟨_, rfl⟩⟩, .given⟩
  | wr32 data => exact writeResponse_records (error_fits (.wr32 data) _) fun hw => ⟨fun _ => hw, .inr rfl⟩
  | wr64 data => exact writeResponse_records (error_fits (.wr64 data) _) fun hw => ⟨fun _ => hw, .inr rfl⟩

/-- Everything an operation can do when it answers a next state. -/
theorem exec_next {i : Instr} {s s' : State} (h : exec i s = .next s') :
    ∃ r, r.fits i s.config ∧ Records r s s' := by
  rw [exec_eq_accessOutcome] at h
  obtain ⟨-, -, hi, ⟨hp, -, rfl⟩ | ⟨-, -, rfl⟩ | ⟨hp, -, rfl⟩ | ⟨hp, -, rfl⟩⟩ := accessOutcome_next h
  · exact performedResult_records hi hp
  · exact ⟨.error, error_fits i _, .given⟩
  · exact ⟨absentResult i, absentResult_fits hi hp, .given⟩
  · exact respondDrawn_records (error_fits i _) (absentResult_fits hi hp)

/-- Settles O10. -/
theorem everyAdmittedOperationCompletes : Obligations.EveryAdmittedOperationCompletes := by
  intro i s hc ha hi
  obtain ⟨s', hs'⟩ := exec_admitted hc ha hi
  obtain ⟨r, ⟨-, hanswers⟩, hrec⟩ := exec_next hs'
  exact ⟨s', r, hs', hrec.responses, hanswers⟩

/-- Settles O20: what `Records` leaves unchanged, and what is read from the configuration alone. -/
theorem operationsChangeNothing : Obligations.OperationsChangeNothing := by
  intro i s s' h
  obtain ⟨r, -, hrec⟩ := exec_next h
  exact ⟨hrec.config, pmmir_congr hrec.config, fun a => by rw [memory_congr hrec.config], hrec.corePower,
    hrec.accessAllowed, hrec.agenda, ⟨r, hrec.responses⟩, hrec.draws⟩

/-- Settles O16: the branch of C14. -/
theorem absentAndUnpoweredIsDrawn : Obligations.AbsentAndUnpoweredIsDrawn :=
  fun _ _ hp ha hi hon => exec_drawn hp ha hi hon

/-- Settles O17: the branch of R50 for a register that is absent in a domain that is on, for the two operations of
each width. -/
theorem absentRegisterIsRes0 : Obligations.AbsentRegisterIsRes0 := by
  intro s d d' hmissing
  have hp : s.config.present = false := by
    obtain h | h := hmissing <;> simp [Config.present, h]
  refine ⟨pmmir_absent hp, memory_absent hp, fun ha hon => ⟨fun h32 => ?_, fun h64 => ?_⟩⟩
  · have hi : (!s.config.pExt64) = true := by simp [h32]
    exact ⟨exec_notPresent (i := .rd32) hp ha hi hon, exec_notPresent (i := .wr32 d) hp ha hi hon⟩
  · exact ⟨exec_notPresent (i := .rd64) hp ha h64 hon, exec_notPresent (i := .wr64 d') hp ha h64 hon⟩

/-! ### Well-formed configurations -/

/-- R25, condition by condition. -/
theorem wf_iff (c : Config) :
    c.wf = true ↔
      (c.edge = 0 ∨ c.edge = 1) ∧ (c.edge = 1 ↔ c.pEdge = true) ∧ c.thWidth.toNat ≤ 12 ∧
        (c.thWidth ≠ 0 ↔ c.pTh = true) ∧ (c.busWidth = 0 ∨ (3 ≤ c.busWidth.toNat ∧ c.busWidth.toNat ≤ 12)) ∧
        (c.busCountAvailable = false → c.busSlots = 0) := by
  have hedge : c.edgeAgrees = true ↔ (c.edge = 1 ↔ c.pEdge = true) := by
    rw [Config.edgeAgrees, beq_iff_eq, Bool.eq_iff_iff, beq_iff_eq]
  have hth : c.thWidthAgrees = true ↔ (c.thWidth ≠ 0 ↔ c.pTh = true) := by
    rw [Config.thWidthAgrees, beq_iff_eq, Bool.eq_iff_iff, bne_iff_ne]
  have hslots : c.busSlotsAgrees = true ↔ (c.busCountAvailable = false → c.busSlots = 0) := by
    cases h : c.busCountAvailable <;> simp [Config.busSlotsAgrees, h]
  simp only [Config.wf, Bool.and_eq_true, hedge, hth, hslots, Config.edgeNotReserved, Config.thWidthNotReserved,
    Config.busWidthNotReserved, Bool.or_eq_true, beq_iff_eq, decide_eq_true_eq, and_assoc]

theorem not_admissible {c : Config} (hp : c.present = true) (hwf : c.wf = false) : c.admissible = false := by
  simp [Config.admissible, hp, hwf]

theorem wf_of_admissible {c : Config} (hp : c.present = true) (hc : c.admissible = true) : c.wf = true := by
  simpa [Config.admissible, hp] using hc

/-- Settles O19. -/
theorem illFormedConfigurationIsRefused : Obligations.IllFormedConfigurationIsRefused := by
  refine ⟨wf_iff, fun s hp hwf => ?_⟩
  have hc := not_admissible hp hwf
  exact ⟨fun i => exec_configuration hc, step_configuration hc⟩

/-! ### The value an outcome carries -/

/-- An operation that recorded `r` could record it. -/
theorem exec_next_possible {i : Instr} {s s' : State} {r : Response} (h : exec i s = .next s')
    (hr : s'.responses = s.responses ++ [r]) : r.possible s.config := by
  obtain ⟨q, ⟨hq, -⟩, hrec⟩ := exec_next h
  have hqr : [q] = [r] := List.append_cancel_left (hrec.responses.symm.trans hr)
  cases hqr
  exact hq

/-- The outcome of an operation that follows another one is possible for the configuration before both. -/
theorem exec_exec_possible {i j : Instr} {s s' s'' : State} {r : Response} (h : exec i s = .next s')
    (h' : exec j s' = .next s'') (hr : s''.responses = s'.responses ++ [r]) : r.possible s.config := by
  rw [← exec_config h]
  exact exec_next_possible h' hr

/-- The data of a possible outcome is the register's value, or zero where there is no register. -/
theorem possible_readData {s : State} {r : Response} (hr : r.possible s.config) {v : Nat} (hv : r.readData = some v) :
    v = s.pmmir.getD 0 := by
  have hread : ∀ w, 28 ≤ w → (readValue w s.config).toNat = s.pmmir.getD 0 := by
    intro w hw
    cases hp : s.config.present with
    | false => simp [readValue_absent w hp, pmmir_absent hp]
    | true => simp [readValue_present w hp, pmmir_present hp, pmmirValue_toNat hw]
  cases r with
  | ok32 x =>
    cases hv
    obtain ⟨-, rfl⟩ := hr
    exact hread 32 (by decide)
  | ok64 x =>
    cases hv
    obtain ⟨-, rfl⟩ := hr
    exact hread 64 (by decide)
  | ok => cases hv
  | error => cases hv

end Sys2Proof.Machine

/-!
SUPPORT. The four operations one by one (spec/40_register_access.md R51 to R54), each from the branches of R50.
-/

namespace Sys2Proof.Machine

section reads
variable {s : State}

theorem rd32_admitted {c : Config} (h32 : c.pExt64 = false) : Instr.rd32.admitted c = true := by
  simp [Instr.admitted, h32]

theorem wr32_admitted {c : Config} (d : Word32) (h32 : c.pExt64 = false) : (Instr.wr32 d).admitted c = true :=
  rd32_admitted h32

theorem rd32_not_admitted {c : Config} (h64 : c.pExt64 = true) : Instr.rd32.admitted c = false := by
  simp [Instr.admitted, h64]

/-- In a domain that is on, a 4-byte read returns the value of its width, or zero without the register. -/
theorem exec_rd32_on (hc : s.config.admissible = true) (ha : s.accessAllowed = true) (h32 : s.config.pExt64 = false)
    (hon : s.corePower = .on) : exec .rd32 s = .next (respond (.ok32 (readValue 32 s.config)) s) := by
  cases hp : s.config.present with
  | true =>
    rw [readValue_present 32 hp]
    exact exec_performed hc ha (rd32_admitted h32) hp hon
  | false =>
    rw [readValue_absent 32 hp]
    exact exec_notPresent hp ha (rd32_admitted h32) hon

end reads

/-- Fields that are all zero read as the absent register does. -/
theorem readValue_zero_fields {w : Nat} (hw : 28 ≤ w) {c : Config} (he : c.edge = 0) (hth : c.thWidth = 0)
    (hbw : c.busWidth = 0) (hbs : c.busSlots = 0) (hs : c.slots = 0) : readValue w c = 0 := by
  cases hp : c.present with
  | true =>
    rw [readValue_present w hp]
    apply BitVec.eq_of_toNat_eq
    rw [pmmirValue_toNat hw, fieldBits_toNat]
    simp [he, hth, hbw, hbs, hs]
  | false => exact readValue_absent w hp

theorem readValue_reservedSlice (w len : Nat) (c : Config) : (readValue w c).extractLsb' 28 len = 0 := by
  cases hp : c.present with
  | true =>
    rw [readValue_present w hp]
    exact pmmirValue_reservedSlice w len c
  | false =>
    rw [readValue_absent w hp]
    ext k hk
    simp

/-- Settles O11. -/
theorem read32 : Obligations.Read32 := by
  intro s hc ha
  refine ⟨?value, ?error, ?absent, ?absentNotOn, ?otherWidth, ?zeroFields, ?successive⟩
  case value => exact fun h32 hp hon => exec_performed hc ha (rd32_admitted h32) hp hon
  case error => exact fun h32 hp hon => exec_error hc ha (rd32_admitted h32) hp hon
  case absent => exact fun h32 hp hon => exec_notPresent hp ha (rd32_admitted h32) hon
  case absentNotOn => exact fun h32 hp hon => exec_drawn hp ha (rd32_admitted h32) hon
  case otherWidth => exact fun h64 => exec_size hc ha (rd32_not_admitted h64)
  case zeroFields =>
    intro h32 hon he hth hbw hbs hs
    rw [exec_rd32_on hc ha h32 hon, readValue_zero_fields (by decide) he hth hbw hbs hs]
    rfl
  case successive =>
    intro s1 s2 v1 v2 h1 hr1 h2 hr2
    obtain ⟨-, rfl⟩ := exec_next_possible h1 hr1
    obtain ⟨-, rfl⟩ := exec_exec_possible h1 h2 hr2
    exact ⟨rfl, readValue_reservedSlice 32 4 s.config⟩

/-- Settles O12. -/
theorem read64 : Obligations.Read64 := by
  intro s hc ha
  refine ⟨?value, ?error, ?absent, ?absentNotOn, ?otherWidth⟩
  case value =>
    intro h64 hp hon
    refine ⟨pmmirValue 64 s.config, exec_performed hc ha h64 hp hon, ?_, pmmirValue_reservedSlice 64 36 s.config,
      (pmmirValue_setWidth (by decide) s.config).symm⟩
    rw [pmmirValue_toNat (by decide), fieldBits_toNat]
  case error => exact fun h64 hp hon => exec_error hc ha h64 hp hon
  case absent => exact fun h64 hp hon => exec_notPresent hp ha h64 hon
  case absentNotOn => exact fun h64 hp hon => exec_drawn hp ha h64 hon
  case otherWidth => exact fun h32 => exec_size hc ha h32

/-- A write of the register that is present and powered, by `RO_WRITE_RESPONSE`: nothing is written (R50). -/
theorem exec_write_performed {i : Instr} {s : State} (hw : performedResult i s = writeResponse s)
    (h : exec i s = .next (performedResult i s)) :
    (s.config.roWriteResponse = .ok → exec i s = .next { s with responses := s.responses ++ [.ok] }) ∧
    (s.config.roWriteResponse = .error → exec i s = .next { s with responses := s.responses ++ [.error] }) ∧
    (s.config.roWriteResponse = .draw →
      exec i s = .next { s with responses := s.responses ++ [if Config.freeChoice s.draws then .ok else .error],
                                draws := s.draws + 1 }) := by
  rw [h, hw]
  exact ⟨fun hok => congrArg _ (writeResponse_ok hok), fun herror => congrArg _ (writeResponse_error herror),
    fun hdraw => congrArg _ (writeResponse_draw hdraw)⟩

/-- Settles O13. -/
theorem write32 : Obligations.Write32 := by
  intro s d hc ha
  refine ⟨?performed, ?error, ?absent, ?absentNotOn, ?otherWidth, fun _ => rfl, ?followingRead⟩
  case performed =>
    exact fun h32 hp hon => exec_write_performed rfl (exec_performed hc ha (wr32_admitted d h32) hp hon)
  case error => exact fun h32 hp hon => exec_error hc ha (wr32_admitted d h32) hp hon
  case absent => exact fun h32 hp hon => exec_notPresent hp ha (wr32_admitted d h32) hon
  case absentNotOn => exact fun h32 hp hon => exec_drawn hp ha (wr32_admitted d h32) hon
  case otherWidth => exact fun h64 => exec_size hc ha (rd32_not_admitted h64)
  case followingRead =>
    intro s1 s2 s3 v v' h1 h2 hr2 h3 hr3
    obtain ⟨-, rfl⟩ := exec_next_possible h2 hr2
    obtain ⟨-, rfl⟩ := exec_exec_possible h1 h3 hr3
    rfl

/-- Settles O14. -/
theorem write64 : Obligations.Write64 := by
  intro s d hc ha
  refine ⟨?performed, ?error, ?absent, ?absentNotOn, ?otherWidth, fun _ => rfl, ?followingRead⟩
  case performed => exact fun h64 hp hon => exec_write_performed rfl (exec_performed hc ha h64 hp hon)
  case error => exact fun h64 hp hon => exec_error hc ha h64 hp hon
  case absent => exact fun h64 hp hon => exec_notPresent hp ha h64 hon
  case absentNotOn => exact fun h64 hp hon => exec_drawn hp ha h64 hon
  case otherWidth => exact fun h32 => exec_size hc ha h32
  case followingRead =>
    intro s1 s2 s3 v v' h1 h2 hr2 h3 hr3
    obtain ⟨-, rfl⟩ := exec_next_possible h2 hr2
    obtain ⟨-, rfl⟩ := exec_exec_possible h1 h3 hr3
    rfl

end Sys2Proof.Machine

/-!
SUPPORT. A step (spec/40_register_access.md R56): the operation of the transaction at the head, the refusal of a
transaction that is no operation (R55), the moves of the environment (R27, R68); and what a step keeps.
-/

namespace Sys2Proof.Machine

/-! ### The transaction at the head of the agenda -/

section transaction
variable {s : State} {t : Txn} {rest : List Event}

theorem perform_of_row {i : Instr} (h : decodeRow t = some i) : perform t s = exec i s := by
  rw [perform, decode_of_row h]

theorem perform_of_noRow (h : decodeRow t = none) : perform t s = refuseUnmatched (unmatchedReason s.config t) s := by
  rw [perform, decode_of_noRow h]

theorem refuseUnmatched_accessibility (u : Unmatched) (ha : s.accessAllowed = false) :
    refuseUnmatched u s = .refused .accessibilityNotInSource := by
  simp [refuseUnmatched, ha]

/-- The refusal of the step that a reason of R55 becomes. -/
def reasonRefusal : Unmatched → Refusal
  | .size => .size
  | .overlap => .overlap
  | .outOfScope => .outOfScope

theorem refuseUnmatched_allowed (u : Unmatched) (ha : s.accessAllowed = true) :
    refuseUnmatched u s = .refused (reasonRefusal u) := by
  cases u <;> simp [refuseUnmatched, ha, reasonRefusal]

theorem step_row {i : Instr} (hc : s.config.admissible = true) (hs : s.agenda = .transaction t :: rest)
    (h : decodeRow t = some i) : step s = exec i (withAgenda rest s) :=
  (step_transaction hc hs).trans (perform_of_row h)

theorem step_noRow (hc : s.config.admissible = true) (ha : s.accessAllowed = true)
    (hs : s.agenda = .transaction t :: rest) (h : decodeRow t = none) :
    step s = .refused (reasonRefusal (unmatchedReason s.config t)) := by
  rw [step_transaction hc hs, perform_of_noRow h]
  exact refuseUnmatched_allowed _ ha

theorem step_inaccessible (hc : s.config.admissible = true) (ha : s.accessAllowed = false)
    (hs : s.agenda = .transaction t :: rest) : step s = .refused .accessibilityNotInSource := by
  cases h : decodeRow t with
  | some i =>
    rw [step_row hc hs h]
    exact exec_accessibility hc ha
  | none =>
    rw [step_transaction hc hs, perform_of_noRow h]
    exact refuseUnmatched_accessibility _ ha

end transaction

/-- Settles O6. -/
theorem stepRunsTheDecodedOperation : Obligations.StepRunsTheDecodedOperation :=
  fun _ _ _ _ hc hs hd => step_row hc hs (decodeRow_eq_some_iff.2 (decode_eq_ok_iff.1 hd))

theorem decodeTableWord_eq_some {nbits w : Nat} {i : Instr} (h : decodeTableWord nbits w = some i) :
    ∃ t, txnOfTableWord nbits w = some t ∧ decodeRow t = some i := by
  cases ht : txnOfTableWord nbits w with
  | some t => exact ⟨t, rfl, by simpa [decodeTableWord, ht] using h⟩
  | none => simp [decodeTableWord, ht] at h

/-- Settles O7: the placed transaction stands before the agenda, and the step takes it off again. -/
theorem placedWordIsTheNextOperation : Obligations.PlacedWordIsTheNextOperation := by
  intro s nbits w i hc h
  obtain ⟨t, ht, hrow⟩ := decodeTableWord_eq_some h
  have hplace : s.withFetchWord nbits w = place t s := by simp [State.withFetchWord, placeTableWord, ht]
  rw [hplace]
  exact step_row (s := place t s) hc rfl hrow

/-- Settles O8. -/
theorem stepOfTheEnvironment : Obligations.StepOfTheEnvironment := fun _ _ hc =>
  ⟨fun _ hs => step_environment hc hs, fun _ hs => step_environment hc hs, fun hs => step_environment hc hs,
    fun hs => step_idle hc hs⟩

/-! ### The reasons of R55, each under its condition -/

theorem unmatchedReason_size {c : Config} {t : Txn} (hb : t.block = .pmu) (ho : t.offset = pmmirOffset) :
    unmatchedReason c t = .size := by
  rw [unmatchedReason, if_pos hb, if_pos ho]

theorem unmatchedReason_overlap {c : Config} {t : Txn} (hb : t.block = .pmu) (ho : t.offset ≠ pmmirOffset)
    (hmeet : t.meetsPmmir c = true) : unmatchedReason c t = .overlap := by
  rw [unmatchedReason, if_pos hb, if_neg ho, if_pos hmeet]

theorem unmatchedReason_apart {c : Config} {t : Txn} (hb : t.block = .pmu) (ho : t.offset ≠ pmmirOffset)
    (hmeet : ¬ t.meetsPmmir c = true) : unmatchedReason c t = .outOfScope := by
  rw [unmatchedReason, if_pos hb, if_neg ho, if_neg hmeet]

theorem unmatchedReason_otherBlock {c : Config} {t : Txn} (hb : t.block ≠ .pmu) :
    unmatchedReason c t = .outOfScope := by
  rw [unmatchedReason, if_neg hb]

/-- Settles O9: no row matches, so the step is the refusal of R55; that some byte lies in both ranges is
`meetsPmmir_iff`. -/
theorem unmatchedTransactionIsRefused : Obligations.UnmatchedTransactionIsRefused := by
  intro s t rest hc hs hno
  have hrow : decodeRow t = none := by
    rw [Option.eq_none_iff_forall_ne_some]
    exact fun i hi => hno i (decodeRow_eq_some_iff.1 hi)
  have hmeet := meetsPmmir_iff s.config t
  rw [regBytes_eq] at hmeet
  refine ⟨fun ha => step_inaccessible hc ha hs, fun ha => ⟨?size, ?overlap, ?apart, ?otherBlock⟩⟩ <;>
    rw [step_noRow hc ha hs hrow]
  case size =>
    intro hb ho
    rw [unmatchedReason_size hb ho, reasonRefusal]
  case overlap =>
    intro hb ho hbyte
    rw [unmatchedReason_overlap hb ho (hmeet.2 hbyte), reasonRefusal]
  case apart =>
    intro hb ho hbyte
    rw [unmatchedReason_apart hb ho (fun h => hbyte (hmeet.1 h)), reasonRefusal]
  case otherBlock =>
    intro hb
    rw [unmatchedReason_otherBlock hb, reasonRefusal]

/-- Settles O18. -/
theorem inaccessibleIsRefused : Obligations.InaccessibleIsRefused := fun _ hc ha =>
  ⟨fun _ => exec_accessibility hc ha, fun _ _ hs => step_inaccessible hc ha hs⟩

/-! ### What a step keeps -/

theorem step_config {s s' : State} (h : step s = .next s') : s'.config = s.config := by
  obtain ⟨-, ⟨-, rfl⟩ | ⟨m, rest, -, rfl⟩ | ⟨t, rest, i, -, -, hexec⟩⟩ := step_next h
  · rfl
  · exact envMove_config m (withAgenda rest s)
  · exact exec_config (s := withAgenda rest s) hexec

/-- Settles O21: an operation moves neither, and of the moves only the named one and a reset do. -/
theorem onlyTheEnvironmentMovesItsState : Obligations.OnlyTheEnvironmentMovesItsState := by
  intro s s' h
  obtain ⟨-, ⟨-, rfl⟩ | ⟨m, rest, hs, rfl⟩ | ⟨t, rest, i, -, -, hexec⟩⟩ := step_next h
  case inl => exact ⟨fun hne => absurd rfl hne, fun hne => absurd rfl hne⟩
  case inr.inl =>
    cases m with
    | power p => exact ⟨fun _ => ⟨rest, .inl hs⟩, fun hne => absurd rfl hne⟩
    | access allowed => exact ⟨fun hne => absurd rfl hne, fun _ => ⟨rest, .inl hs⟩⟩
    | reset => exact ⟨fun _ => ⟨rest, .inr hs⟩, fun _ => ⟨rest, .inr hs⟩⟩
  case inr.inr =>
    obtain ⟨r, -, hrec⟩ := exec_next hexec
    exact ⟨fun hne => absurd hrec.corePower hne, fun hne => absurd hrec.accessAllowed hne⟩

/-! ### The fields and what they say -/

theorem edgeMeaning_reserved {e : BitVec 4} (h0 : e ≠ 0) (h1 : e ≠ 1) : edgeMeaning e = .reserved := by
  rw [edgeMeaning, if_neg h0, if_neg h1]

/-- Settles O33: the table, the tie of R25, and a step keeps the configuration. -/
theorem edgeField : Obligations.EdgeField := by
  refine ⟨rfl, rfl, fun e => edgeMeaning_reserved, fun c hwf => ?_, fun s s' h => by rw [step_config h]⟩
  obtain ⟨hvalues, htie, -⟩ := (wf_iff c).1 hwf
  split
  next hfeature => exact htie.2 hfeature
  next hfeature => exact hvalues.resolve_right fun h1 => hfeature (htie.1 h1)

theorem ne_zero_of_le_toNat {b : BitVec 4} {n : Nat} (h : n + 1 ≤ b.toNat) : b ≠ 0 := by
  rintro rfl
  exact absurd h (Nat.not_succ_le_zero n)

theorem thBits_some {w : BitVec 4} (h1 : 1 ≤ w.toNat) (h12 : w.toNat ≤ 12) : thBits w = .some w.toNat := by
  rw [thBits, if_neg (ne_zero_of_le_toNat h1), if_pos h12]

theorem thBits_reserved {w : BitVec 4} (h13 : 13 ≤ w.toNat) : thBits w = .reserved := by
  rw [thBits, if_neg (ne_zero_of_le_toNat h13), if_neg (by omega)]

/-- Settles O34: the helpers of R33 at `thBits_some`. -/
theorem thWidthField : Obligations.ThWidthField := by
  refine ⟨rfl, rfl, fun w h1 h12 => ?_, fun w => thBits_reserved, fun s s' h => by rw [step_config h]⟩
  have hw := thBits_some h1 h12
  refine ⟨hw, by rw [thUsable, hw], fun hlt => ?_, fun heq => ?_⟩
  · simp [thRes0, hw, hlt.ne]
  · simp [thRes0, hw, heq]

/-- Settles O35. -/
theorem largestThresholdValue : Obligations.LargestThresholdValue := by
  refine ⟨fun w h1 h12 => by rw [thMax, thBits_some h1 h12], fun c hwf => ?_⟩
  obtain ⟨-, -, -, htie, -⟩ := (wf_iff c).1 hwf
  refine ⟨htie.symm, fun hfeature => ?_⟩
  have h0 : c.thWidth = 0 := not_not.1 fun hne => by simp [htie.1 hne] at hfeature
  rw [h0]
  rfl

theorem busBytes_eq_some_iff {b : BitVec 4} {n : Nat} :
    busBytes b = .some n ↔ 3 ≤ b.toNat ∧ b.toNat ≤ 12 ∧ 2 ^ (b.toNat - 1) = n := by
  constructor
  · intro h
    unfold busBytes at h
    split at h
    next => cases h
    next =>
      split at h
      next hsize =>
        cases h
        exact ⟨hsize.1, hsize.2, rfl⟩
      next => cases h
  · rintro ⟨h3, h12, rfl⟩
    rw [busBytes, if_neg (ne_zero_of_le_toNat h3), if_pos ⟨h3, h12⟩]

/-- Settles O36: the formula is the logarithm of a power of two. -/
theorem busWidthField : Obligations.BusWidthField := by
  refine ⟨rfl, rfl, rfl, rfl, rfl, rfl, rfl, rfl, rfl, rfl, rfl, rfl, rfl, rfl, rfl, rfl, fun b n h => ?_,
    fun s s' h => by rw [step_config h]⟩
  obtain ⟨h3, -, rfl⟩ := busBytes_eq_some_iff.1 h
  rw [busWidthFor, Nat.log2_two_pow]
  omega

/-- Settles O37. -/
theorem eventBoundsFromTheFields : Obligations.EventBoundsFromTheFields := by
  intro c hwf
  obtain ⟨-, -, -, -, hbus, hslots⟩ := (wf_iff c).1 hwf
  refine ⟨fun h0 => ?noSize, fun h0 => ?size, fun h0 => ?slots, fun hcount => ?noCount, fun hstall => ?stall⟩
  case noSize =>
    rw [busAccessMaxBytes, h0]
    rfl
  case size =>
    obtain ⟨h3, h12⟩ := hbus.resolve_left h0
    rw [busAccessMaxBytes, busBytes_eq_some_iff.2 ⟨h3, h12, rfl⟩]
  case slots => rw [busAccessMaxIncrement, if_neg h0]
  case noCount => rw [busAccessMaxIncrement, if_pos (hslots hcount)]
  case stall => rw [stallSlotMaxIncrement, if_pos hstall]

end Sys2Proof.Machine

/-!
SUPPORT. Runs (spec/40_register_access.md R56): what a step, and so a run, adds to the record of outcomes; the register
is constant over it (R24); and an accessible run of admitted operations reaches its end.
-/

namespace Sys2Proof.Machine

/-! ### What a step and a run add to the record -/

/-- A step adds outcomes to the record, none or one, and each is one the implementation can give. -/
theorem step_responses {s s' : State} (h : step s = .next s') :
    ∃ more, s'.responses = s.responses ++ more ∧ ∀ r ∈ more, r.possible s.config := by
  obtain ⟨-, ⟨-, rfl⟩ | ⟨m, rest, -, rfl⟩ | ⟨t, rest, i, -, -, hexec⟩⟩ := step_next h
  · exact ⟨[], (List.append_nil _).symm, by simp⟩
  · exact ⟨[], by simp, by simp⟩
  · obtain ⟨r, ⟨hr, -⟩, hrec⟩ := exec_next hexec
    exact ⟨[r], hrec.responses, fun q hq => (List.mem_singleton.1 hq) ▸ hr⟩

/-- Settles O25: the outcomes on record before are possible by hypothesis, the new ones by `step_responses`. -/
theorem stepKeepsOutcomesFaithful : Obligations.StepKeepsOutcomesFaithful := by
  intro s s' hfaithful h r hr
  obtain ⟨more, hmore, hpossible⟩ := step_responses h
  rw [step_config h]
  rw [hmore, List.mem_append] at hr
  exact hr.elim (hfaithful r) (hpossible r)

theorem faithful_of_noResponses {s : State} (h : s.responses = []) : s.Faithful := by
  simp [State.Faithful, h]

/-- Settles O26. -/
theorem resetIsFaithful : Obligations.ResetIsFaithful :=
  ⟨fun _ ⟨_, _, h⟩ => faithful_of_noResponses h, ⟨by decide, rfl, rfl⟩, faithful_of_noResponses rfl⟩

theorem run_config {k : Nat} {s s' : State} (h : run k s = .next s') : s'.config = s.config :=
  run_induction (P := fun t => t.config = s.config) (fun _ _ ht hstep => (step_config hstep).trans ht) k s s' rfl h

/-- Settles O23: the register and its bytes are read from the configuration. -/
theorem registerIsConstantOverRuns : Obligations.RegisterIsConstantOverRuns := by
  intro k s s' h
  have hc := run_config h
  exact ⟨hc, pmmir_congr hc, fun a => by rw [memory_congr hc]⟩

/-- A run adds outcomes to the record, and each is one the implementation can give. -/
theorem run_responses :
    ∀ {k : Nat} {s s' : State}, run k s = .next s' →
      ∃ more, s'.responses = s.responses ++ more ∧ ∀ r ∈ more, r.possible s.config
  | 0, s, _, h => by
    cases h
    exact ⟨[], (List.append_nil _).symm, by simp⟩
  | k + 1, s, s', h => by
    obtain ⟨t, hstep, hrun⟩ := run_succ_next h
    obtain ⟨first, hfirst, hpossible⟩ := step_responses hstep
    obtain ⟨later, hlater, hpossible'⟩ := run_responses hrun
    rw [step_config hstep] at hpossible'
    refine ⟨first ++ later, by rw [hlater, hfirst, List.append_assoc], fun r hr => ?_⟩
    exact (List.mem_append.1 hr).elim (hpossible r) (hpossible' r)

/-- Settles O24. -/
theorem completedReadsAgreeOverARun : Obligations.CompletedReadsAgreeOverARun := by
  intro k s s' h
  obtain ⟨more, hmore, hpossible⟩ := run_responses h
  exact ⟨more, hmore, fun r hr v hv => possible_readData (hpossible r hr) hv⟩

/-! ### No reserved value is shown -/

theorem edgeMeaning_ne_reserved {e : BitVec 4} (h : e = 0 ∨ e = 1) : edgeMeaning e ≠ .reserved := by
  obtain rfl | rfl := h <;> decide

theorem thBits_ne_reserved {w : BitVec 4} (h : w.toNat ≤ 12) : thBits w ≠ .reserved := by
  rw [thBits, if_pos h]
  split <;> exact ThBits.noConfusion

theorem busBytes_ne_reserved {b : BitVec 4} (h : b = 0 ∨ (3 ≤ b.toNat ∧ b.toNat ≤ 12)) : busBytes b ≠ .reserved := by
  obtain rfl | ⟨h3, h12⟩ := h
  · decide
  · rw [busBytes_eq_some_iff.2 ⟨h3, h12, rfl⟩]
    exact BusBytes.noConfusion

/-- Settles O38: the outcomes of the run carry the register's value, and the first step was not refused, so the fields
in that value are those of a well-formed configuration. -/
theorem readsNeverShowReservedValues : Obligations.ReadsNeverShowReservedValues := by
  intro k s s' hnone hp h r hr v hv
  obtain ⟨t, hstep, -⟩ := run_succ_next h
  obtain ⟨hc, -⟩ := step_next hstep
  obtain ⟨hedge, -, hth, -, hbus, hslots⟩ := (wf_iff s.config).1 (wf_of_admissible hp hc)
  obtain ⟨more, hmore, hpossible⟩ := run_responses h
  rw [hmore, hnone, List.nil_append] at hr
  have hvalue : v = (fieldBits s.config).toNat := by
    rw [possible_readData (hpossible r hr) hv, pmmir_present hp, Option.getD_some]
  have hword : BitVec.ofNat 64 v = pmmirValue 64 s.config := by
    rw [hvalue, BitVec.ofNat_toNat, pmmirValue]
  have h64 : 28 ≤ 64 := by decide
  rw [hword, edgeOf_pmmirValue h64, thWidthOf_pmmirValue h64, busWidthOf_pmmirValue h64, busSlotsOf_pmmirValue h64]
  exact ⟨edgeMeaning_ne_reserved hedge, thBits_ne_reserved hth, busBytes_ne_reserved hbus,
    hvalue.trans_lt (fieldBits s.config).isLt, hslots⟩

/-! ### Runs that reach their end -/

/-- A run whose first step is known, and the rest. -/
theorem run_of_step {k : Nat} {s t : State} {o : Host.Outcome State Fault Refusal} (hstep : step s = .next t)
    (hrun : run k t = o) : run (k + 1) s = o :=
  (run_succ_of_next hstep).trans hrun

/-- A run whose first step performs an operation. -/
theorem run_of_exec {k : Nat} {s t : State} {i : Instr} {rest : List Event} {o : Host.Outcome State Fault Refusal}
    (hc : s.config.admissible = true) (hs : s.agenda = .transaction (encode i) :: rest)
    (hexec : exec i (withAgenda rest s) = .next t) (hrun : run k t = o) : run (k + 1) s = o :=
  run_of_step ((step_row hc hs (decodeRow_encode i)).trans hexec) hrun

/-- An event that no step refuses is an operation of the table that the configuration admits, or a power move. -/
theorem harmless_cases {c : Config} {e : Event} (h : e.harmless c = true) :
    (∃ t i, e = .transaction t ∧ decodeRow t = some i ∧ i.admitted c = true) ∨ ∃ p, e = .environment (.power p) := by
  cases e with
  | transaction t =>
    cases hrow : decodeRow t with
    | some i => exact .inl ⟨t, i, rfl, hrow, by simpa [Event.harmless, hrow] using h⟩
    | none => simp [Event.harmless, hrow] at h
  | environment m =>
    cases m with
    | power p => exact .inr ⟨p, rfl⟩
    | access allowed => cases h
    | reset => cases h

/-- A step on such an event, with the interface accessible, takes it off the agenda and records an outcome exactly if
it is a transaction. -/
theorem step_harmless {s : State} {e : Event} {rest : List Event} (hc : s.config.admissible = true)
    (ha : s.accessAllowed = true) (hs : s.agenda = e :: rest) (he : e.harmless s.config = true) :
    ∃ t, step s = .next t ∧ t.config = s.config ∧ t.accessAllowed = true ∧ t.agenda = rest ∧
      t.responses.length = s.responses.length + transactionCount [e] := by
  obtain ⟨t, i, rfl, hrow, hi⟩ | ⟨p, rfl⟩ := harmless_cases he
  · obtain ⟨s', hs'⟩ := exec_admitted (s := withAgenda rest s) hc ha hi
    obtain ⟨r, -, hrec⟩ := exec_next hs'
    refine ⟨s', (step_row hc hs hrow).trans hs', hrec.config, hrec.accessAllowed.trans ha, hrec.agenda, ?_⟩
    simp [hrec.responses, transactionCount]
  · exact ⟨_, step_environment hc hs, rfl, ha, rfl, rfl⟩

theorem transactionCount_cons (e : Event) (rest : List Event) :
    transactionCount (e :: rest) = transactionCount [e] + transactionCount rest := by
  cases e <;> simp [transactionCount, Nat.add_comm]

/-- Induction over the agenda, for every state that has it. -/
theorem harmless_run :
    ∀ (agenda : List Event) {s : State}, s.agenda = agenda → s.config.admissible = true → s.accessAllowed = true →
      (∀ e ∈ agenda, Event.harmless s.config e = true) →
      ∃ s', run agenda.length s = .next s' ∧ s'.agenda = [] ∧
        s'.responses.length = s.responses.length + transactionCount agenda
  | [], s, hs, _, _, _ => ⟨s, rfl, hs, rfl⟩
  | e :: rest, s, hs, hc, ha, hharmless => by
    obtain ⟨t, hstep, hconfig, hallowed, hagenda, hcount⟩ :=
      step_harmless hc ha hs (hharmless e (List.mem_cons_self ..))
    have hrest : ∀ e' ∈ rest, Event.harmless t.config e' = true := fun e' he' => by
      rw [hconfig]
      exact hharmless e' (List.mem_cons_of_mem e he')
    obtain ⟨s', hrun, hend, hlength⟩ := harmless_run rest hagenda (hconfig ▸ hc) hallowed hrest
    refine ⟨s', run_of_step hstep hrun, hend, ?_⟩
    rw [hlength, hcount, transactionCount_cons e rest, Nat.add_assoc]

/-- Settles O27. -/
theorem admittedAgendaRunsToItsEnd : Obligations.AdmittedAgendaRunsToItsEnd :=
  fun s hc ha hharmless => harmless_run s.agenda rfl hc ha hharmless

/-! ### An `Error` is not sticky -/

/-- The read of the register's own width returns its value. -/
theorem exec_ownRead {s : State} {rd : Instr} (hc : s.config.admissible = true) (ha : s.accessAllowed = true)
    (hp : s.config.present = true) (hon : s.corePower = .on)
    (hrd : rd = (if s.config.pExt64 then .rd64 else .rd32)) :
    ∃ s' r, exec rd s = .next s' ∧ s'.agenda = s.agenda ∧ s'.responses = s.responses ++ [r] ∧
      r.readData = s.pmmir := by
  rw [pmmir_present hp, hrd]
  cases hw : s.config.pExt64 with
  | true =>
    exact ⟨_, .ok64 _, exec_performed hc ha hw hp hon, rfl, rfl,
      congrArg some (pmmirValue_toNat (by decide) s.config)⟩
  | false =>
    exact ⟨_, .ok32 _, exec_performed hc ha (rd32_admitted hw) hp hon, rfl, rfl,
      congrArg some (pmmirValue_toNat (by decide) s.config)⟩

theorem ready_iff {s : State} :
    s.ready = true ↔
      s.config.admissible = true ∧ s.accessAllowed = true ∧ s.config.present = true ∧ s.corePower = .on := by
  simp [State.ready, State.accessible, and_assoc]

/-- Settles O22: the four steps one by one; once the power is back, the state after the `Error` differs from the ready
one in agenda and outcomes only, which the read does not look at. -/
theorem errorIsNotSticky : Obligations.ErrorIsNotSticky := by
  intro s i rd p rest hready hi hpow hrd hs
  obtain ⟨hc, ha, hp, hon⟩ := ready_iff.1 hready
  obtain ⟨s', r, hread, hagenda, hresponses, hvalue⟩ :=
    exec_ownRead (s := withAgenda rest (withPower .on (takeError (withPower p s)))) hc ha hp rfl hrd
  refine ⟨s', r, ?run, hagenda, hresponses.trans (List.append_assoc ..), hvalue⟩
  refine run_of_step (step_environment hc hs) ?_
  refine run_of_exec hc rfl (exec_error hc ha hi hp hpow) ?_
  refine run_of_step (step_environment hc rfl) ?_
  exact run_of_exec hc rfl hread rfl

end Sys2Proof.Machine

/-!
SUPPORT. What an outcome does not depend on: the fields of the register, unless a read of it completes
(spec/40_register_access.md R50); `PMU_BASE` and `BYTE_ORDER`, at every step (spec/20_memory.md R35, R38). Both compare
two states for the same free values (log entry 5).
-/

namespace Sys2Proof.Machine

/-! ### The fields -/

section fields
variable {s t : State}

theorem admitted_congr {c c' : Config} (i : Instr) (h : c'.pExt64 = c.pExt64) : i.admitted c' = i.admitted c := by
  cases i <;> simp [Instr.admitted, h]

theorem present_congr {c c' : Config} (hext : c'.pExt = c.pExt) (hv3p4 : c'.pV3p4 = c.pV3p4) :
    c'.present = c.present := by
  rw [Config.present, Config.present, hext, hv3p4]

theorem performedResult_write {i : Instr} (h32 : i ≠ .rd32) (h64 : i ≠ .rd64) (s : State) :
    performedResult i s = writeResponse s := by
  cases i with
  | rd32 => exact absurd rfl h32
  | rd64 => exact absurd rfl h64
  | wr32 data => rfl
  | wr64 data => rfl

theorem respondDrawn_congr (a b : Response) (hr : t.responses = s.responses) (hd : t.draws = s.draws) :
    (respondDrawn a b t).responses = (respondDrawn a b s).responses ∧
      (respondDrawn a b t).draws = (respondDrawn a b s).draws := by
  simp [hr, hd]

theorem respond_congr (r : Response) (hr : t.responses = s.responses) (hd : t.draws = s.draws) :
    (respond r t).responses = (respond r s).responses ∧ (respond r t).draws = (respond r s).draws := by
  simp [hr, hd]

theorem writeResponse_congr (hw : t.config.roWriteResponse = s.config.roWriteResponse)
    (hr : t.responses = s.responses) (hd : t.draws = s.draws) :
    (writeResponse t).responses = (writeResponse s).responses ∧ (writeResponse t).draws = (writeResponse s).draws := by
  obtain ⟨h, hs⟩ | ⟨h, hs⟩ | ⟨h, hs⟩ := writeResponse_cases s <;> rw [hs]
  · rw [writeResponse_ok (hw.trans h)]
    exact respond_congr .ok hr hd
  · rw [writeResponse_error (hw.trans h)]
    exact respond_congr .error hr hd
  · rw [writeResponse_draw (hw.trans h)]
    exact respondDrawn_congr .ok .error hr hd

end fields

/-- Settles O28: the other state takes the same branch of R50, and of the branches left only a performed read looks at
the fields. -/
theorem fieldsShowOnlyInACompletedRead : Obligations.FieldsShowOnlyInACompletedRead := by
  intro i s t s' hcs hct hext hv3p4 hext64 hw hpower hallowed hr hd hblind h
  rw [exec_eq_accessOutcome] at h
  obtain ⟨-, ha, hi, hbranch⟩ := accessOutcome_next h
  have ha' : t.accessAllowed = true := hallowed.trans ha
  have hi' : i.admitted t.config = true := (admitted_congr i hext64).trans hi
  have hpresent : t.config.present = s.config.present := present_congr hext hv3p4
  rw [← hpower, ← hpresent] at hbranch hblind
  obtain ⟨hp, hon, rfl⟩ | ⟨hp, hon, rfl⟩ | ⟨hp, hon, rfl⟩ | ⟨hp, hon, rfl⟩ := hbranch
  case inl =>
    obtain hoff | habsent | ⟨h32, h64⟩ := hblind
    · exact absurd hon hoff
    · simp [hp] at habsent
    · refine ⟨_, exec_performed hct ha' hi' hp hon, ?_⟩
      rw [performedResult_write h32 h64, performedResult_write h32 h64]
      exact writeResponse_congr hw hr hd
  case inr.inl => exact ⟨_, exec_error hct ha' hi' hp hon, respond_congr .error hr hd⟩
  case inr.inr.inl => exact ⟨_, exec_notPresent hp ha' hi' hon, respond_congr (absentResult i) hr hd⟩
  case inr.inr.inr => exact ⟨_, exec_drawn hp ha' hi' hon, respondDrawn_congr .error (absentResult i) hr hd⟩

/-! ### The base and the byte order

Every operation of the machine commutes with `State.relocate`; `relocateOutcome` says that for what a step answers. -/

/-- What a step answers, with another base and byte order in its next state. -/
def relocateOutcome (base : Nat) (order : ByteOrder) :
    Host.Outcome State Fault Refusal → Host.Outcome State Fault Refusal
  | .next s => .next (s.relocate base order)
  | .fault r => .fault r
  | .refused r => .refused r

section relocate
variable (base : Nat) (order : ByteOrder) (s : State)

theorem writeResponse_relocate : writeResponse (s.relocate base order) = (writeResponse s).relocate base order := by
  obtain ⟨h, hs⟩ | ⟨h, hs⟩ | ⟨h, hs⟩ := writeResponse_cases s <;> rw [hs]
  · exact writeResponse_ok h
  · exact writeResponse_error h
  · exact writeResponse_draw h

theorem performedResult_relocate (i : Instr) :
    performedResult i (s.relocate base order) = (performedResult i s).relocate base order := by
  cases i with
  | rd32 => rfl
  | rd64 => rfl
  | wr32 data => exact writeResponse_relocate base order s
  | wr64 data => exact writeResponse_relocate base order s

/-- The checks of R50 do not look at base and order, so it is enough that the normal branch commutes. -/
theorem accessOutcome_relocate {admitted : Bool} {notPresent : Response} {normal normal' : State → State}
    (hn : normal' (s.relocate base order) = (normal s).relocate base order) :
    accessOutcome admitted notPresent normal' (s.relocate base order) =
      relocateOutcome base order (accessOutcome admitted notPresent normal s) := by
  simp only [accessOutcome, apply_ite (relocateOutcome base order), hn]
  rfl

theorem exec_relocate (i : Instr) : exec i (s.relocate base order) = relocateOutcome base order (exec i s) := by
  have hadmitted : i.admitted (s.relocate base order).config = i.admitted s.config := admitted_congr i rfl
  rw [exec_eq_accessOutcome, exec_eq_accessOutcome, hadmitted]
  exact accessOutcome_relocate base order s (performedResult_relocate base order s i)

theorem perform_relocate (t : Txn) :
    perform t (s.relocate base order) = relocateOutcome base order (perform t s) := by
  cases h : decodeRow t with
  | some i =>
    rw [perform_of_row h, perform_of_row h]
    exact exec_relocate base order s i
  | none =>
    rw [perform_of_noRow h, perform_of_noRow h]
    cases ha : s.accessAllowed with
    | false =>
      rw [refuseUnmatched_accessibility _ ha]
      exact refuseUnmatched_accessibility _ ha
    | true =>
      rw [refuseUnmatched_allowed _ ha]
      exact refuseUnmatched_allowed _ ha

theorem envMove_relocate (m : EnvMove) :
    envMove m (s.relocate base order) = (envMove m s).relocate base order := by
  cases m <;> rfl

theorem step_relocate : step (s.relocate base order) = relocateOutcome base order (step s) := by
  cases hc : s.config.admissible with
  | false =>
    rw [step_configuration hc]
    exact step_configuration hc
  | true =>
    have hc' : (s.relocate base order).config.admissible = true := hc
    match hs : s.agenda with
    | [] =>
      rw [step_idle hc hs, step_idle hc' hs, relocateOutcome]
    | .environment m :: rest =>
      rw [step_environment hc hs, step_environment hc' hs]
      exact congrArg _ (envMove_relocate base order (withAgenda rest s) m)
    | .transaction t :: rest =>
      rw [step_transaction hc hs, step_transaction hc' hs]
      exact perform_relocate base order (withAgenda rest s) t

end relocate

/-- Settles O29: `step_relocate` for a next state and for a refusal. -/
theorem baseAndByteOrderDoNotMatter : Obligations.BaseAndByteOrderDoNotMatter := by
  intro s base order
  exact ⟨fun s' h => by rw [step_relocate, h, relocateOutcome], fun r h => by rw [step_relocate, h, relocateOutcome]⟩

end Sys2Proof.Machine

/-!
SUPPORT. The bytes of the register (spec/20_memory.md R36, R38): where they stand, and that put together in either order
they are the value.
-/

namespace Sys2Proof.Machine

section lanes
variable {w : Nat}

/-- The lanes listed from `k` on are known at their own addresses and nowhere else. -/
theorem readByte_lanesFrom_isSome (order : ByteOrder) (n : Nat) (v : BitVec w) (base : Nat) :
    ∀ count k addr, (Memory.readByte (lanesFrom order n v base k count) addr).isSome = true ↔
      base + k ≤ addr ∧ addr < base + k + count
  | 0, k, addr => by
    simp only [lanesFrom, Memory.readByte, Option.isSome_none, Bool.false_eq_true, false_iff]
    omega
  | count + 1, k, addr => by
    rw [lanesFrom, Memory.readByte]
    split
    next h =>
      simp only [Option.isSome_some, true_iff]
      omega
    next h =>
      rw [readByte_lanesFrom_isSome order n v base count (k + 1) addr]
      omega

/-- Eight bits of a value, as a digit of base 256. -/
theorem byte_toNat (v : BitVec w) (j : Nat) : (v.extractLsb' (8 * j) 8).toNat = v.toNat / 2 ^ (8 * j) % 2 ^ 8 := by
  rw [BitVec.extractLsb'_toNat, Nat.shiftRight_eq_div_pow]

/-- The lanes from `k` to the end, least significant first: the value with its lower `k` bytes cleared. -/
theorem assembleFrom_little {m : Memory} {n base : Nat} {v : BitVec w} (hw : w ≤ 8 * n)
    (hm : ∀ j < n, m.readByte (base + j) = some (laneByte .little n v j)) :
    ∀ count k, k + count = n →
      m.assembleFrom .little n base k count = some (v.toNat / 2 ^ (8 * k) * 2 ^ (8 * k))
  | 0, k, hk => by
    have hlt : v.toNat < 2 ^ (8 * k) := lt_of_lt_of_le v.isLt (Nat.pow_le_pow_right (by decide) (by omega))
    rw [Memory.assembleFrom, Nat.div_eq_of_lt hlt, Nat.zero_mul]
  | count + 1, k, hk => by
    have hpow : 2 ^ (8 * (k + 1)) = 2 ^ (8 * k) * 2 ^ 8 := by rw [Nat.mul_succ, Nat.pow_add]
    rw [Memory.assembleFrom, hm k (by omega), assembleFrom_little hw hm count (k + 1) (by omega)]
    simp only [laneByte, byte_toNat, hpow, ← Nat.div_div_eq_div_mul, Option.some.injEq]
    generalize v.toNat / 2 ^ (8 * k) = q
    generalize 2 ^ (8 * k) = p
    calc q % 2 ^ 8 * p + q / 2 ^ 8 * (p * 2 ^ 8) = (2 ^ 8 * (q / 2 ^ 8) + q % 2 ^ 8) * p := by ring
      _ = q * p := by rw [Nat.div_add_mod]

/-- The lanes from `k` to the end, most significant first: the low bytes of the value, as many as there are lanes. -/
theorem assembleFrom_big {m : Memory} {n base : Nat} {v : BitVec w}
    (hm : ∀ j < n, m.readByte (base + j) = some (laneByte .big n v j)) :
    ∀ count k, k + count = n → m.assembleFrom .big n base k count = some (v.toNat % 2 ^ (8 * count))
  | 0, k, hk => by rw [Memory.assembleFrom, Nat.mul_zero, Nat.pow_zero, Nat.mod_one]
  | count + 1, k, hk => by
    have hlane : n - 1 - k = count := by omega
    rw [Memory.assembleFrom, hm k (by omega), assembleFrom_big hm count (k + 1) (by omega)]
    simp only [laneByte, byte_toNat, hlane, Option.some.injEq]
    rw [Nat.mul_succ, Nat.pow_add, Nat.mod_mul]
    ring

/-- The bytes of a value put together in the order in which they stand are the value. -/
theorem assemble_lanesFrom (order : ByteOrder) {n : Nat} (v : BitVec w) (base : Nat) (hw : w = 8 * n) :
    Memory.assemble (lanesFrom order n v base 0 n) order base n = some v.toNat := by
  have hm : ∀ j < n, Memory.readByte (lanesFrom order n v base 0 n) (base + j) = some (laneByte order n v j) :=
    fun j hj => readByte_lanesFrom order n v base n 0 j (Nat.zero_le j) (by omega)
  rw [Memory.assemble]
  cases order with
  | little => simpa using assembleFrom_little hw.le hm n 0 (Nat.zero_add n)
  | big =>
    rw [assembleFrom_big hm n 0 (Nat.zero_add n), ← hw, Nat.mod_eq_of_lt v.isLt]

end lanes

theorem width_eq (c : Config) : c.width = 8 * c.regBytes := by
  unfold Config.width Config.regBytes
  split <;> rfl

theorem memory_present {s : State} (hp : s.config.present = true) :
    s.memory = lanesFrom s.config.byteOrder s.config.regBytes (pmmirValue s.config.width s.config)
      (pmmirAddress s.config) 0 s.config.regBytes := by
  rw [State.memory, pmmirMemory, if_pos hp]

/-- Settles O39. -/
theorem bytesOfTheRegister : Obligations.BytesOfTheRegister := by
  intro s hp
  refine ⟨?assembled, fun a => ?place, memory_wf s⟩
  case assembled =>
    rw [memory_present hp, ← regBytes_eq, State.pmmir, if_pos hp]
    exact assemble_lanesFrom s.config.byteOrder (pmmirValue s.config.width s.config) (pmmirAddress s.config)
      (width_eq s.config)
  case place =>
    rw [memory_present hp, ← regBytes_eq]
    exact readByte_lanesFrom_isSome ..

end Sys2Proof.Machine
